-- ==== Sys2Proof/Word.lean ====
section
/-! DEFINITION. The words of the model: the 32-bit A64 instruction word and its bytes
(spec/30_encoding.md rule R56), and the 64-bit virtual address (spec/10_state.md rule R11). -/

namespace Sys2Proof

/-- One byte of an instruction word. -/
abbrev Byte := BitVec 8

/-- One A64 instruction word, bit 31 the most significant (spec/30_encoding.md rule R56). -/
abbrev Word := BitVec 32

/-- A virtual instruction address; 64 bits is the spec's own decision D11 (spec/10_state.md rule R11,
notes/assumptions/3.md). -/
abbrev Addr := BitVec 64

end Sys2Proof
end

