-- ==== Sys2Proof/Machine/Types.lean ====
section
/-! DEFINITION. The vocabulary of the unit as plain data: the PE's Exception levels and contexts, the
Branch record, the control fields with their two views, the System registers software reaches, the
events the PE delivers, and what the unit answers to the PE (spec/00_scope.md rule R6,
spec/10_state.md rules R12 to R35). -/

namespace Sys2Proof

/-! ### The PE's state as the unit sees it -/

/-- The four Exception levels (spec/60_exceptions.md rule R173). -/
inductive EL where
  | el0 | el1 | el2 | el3
deriving DecidableEq, Repr, Inhabited

/-- `PSTATE.EL` as `BRBINF<n>_EL1.EL` holds it (spec/10_state.md rule R15). -/
def EL.bits : EL → BitVec 2
  | .el0 => 0
  | .el1 => 1
  | .el2 => 2
  | .el3 => 3

/-- The PE context an event carries (spec/00_scope.md rule R6). -/
structure Context where
  /-- `PSTATE.EL` of the code in question. -/
  el : EL
  /-- "the PE is in Secure state". -/
  secure : Bool
  /-- The code executes in AArch32 state. -/
  aarch32 : Bool
  /-- The PE is in Debug state. -/
  debug : Bool
  /-- "EL2 is enabled in the current Security state". -/
  el2Enabled : Bool
deriving DecidableEq, Repr, Inhabited

/-- A value of `BRBINF<n>_EL1.TYPE`. The source gives neither its width nor its values: `BranchType` is an open
finite type (spec/00_scope.md rule R3, spec/10_state.md rule R14). The model holds a value as its number, below
`Params.branchTypes`, and never computes with it. DESIGN CHOICE, notes/assumptions/4.md. -/
abbrev BranchType := Nat

/-! ### The Branch record (spec/10_state.md rule R12) -/

/-- `BRBINF<n>_EL1`, by named field. -/
structure BrbInf where
  /-- `0b00` invalid, `0b01` Half-target, `0b10` Half-source, `0b11` Full (rule R13). -/
  valid : BitVec 2
  type : BranchType
  el : BitVec 2
  mpred : Bool
  ccu : Bool
  /-- `CCW` bits, held as a number below `2 ^ CCW` (rule R18). -/
  cc : Nat
  lastFailed : Bool
deriving DecidableEq, Repr, Inhabited

/-- One Branch record: `BRBINF<n>_EL1`, `BRBSRC<n>_EL1.ADDRESS`, `BRBTGT<n>_EL1.ADDRESS`. -/
structure Record where
  inf : BrbInf
  src : Addr
  tgt : Addr
deriving DecidableEq, Repr, Inhabited

/-- What a generated record captures: its kind with the halves that are valid (spec/40_branch_records.md
rules R67 to R69, R76). A half that the kind does not have is not an argument, so it cannot reach the
record. -/
inductive Capture where
  | full (src tgt : Addr) (tgtEl : EL)
  | halfSource (src : Addr)
  | halfTarget (tgt : Addr) (tgtEl : EL)
deriving DecidableEq, Repr

/-! ### The control fields (spec/10_state.md rules R21, R22, R25 to R27) -/

/-- `BRBCR_EL1`, the six named fields (rule R21). -/
structure BrbcrEl1 where
  e0bre : Bool
  e1bre : Bool
  cc : Bool
  mpred : Bool
  exception : Bool
  ertn : Bool
deriving DecidableEq, Repr, Inhabited

/-- `BRBCR_EL2`, the six named fields (rule R22). -/
structure BrbcrEl2 where
  e0hbre : Bool
  e2bre : Bool
  cc : Bool
  mpred : Bool
  exception : Bool
  ertn : Bool
deriving DecidableEq, Repr, Inhabited

/-- `MDCR_EL3`, the three named fields (rule R26). -/
structure MdcrEl3 where
  sbrbe : BitVec 2
  e3brec : Bool
  e3brew : Bool
deriving DecidableEq, Repr, Inhabited

/-- One view of every control field that has a `written` and a `synced` value (rule R32). -/
structure Controls where
  brbcrEl1 : BrbcrEl1
  brbcrEl2 : BrbcrEl2
  /-- `BRBFCR_EL1.PAUSED` (rule R25). -/
  paused : Bool
  mdcrEl3 : MdcrEl3
  /-- `HCR_EL2.TGE` (rule R27). -/
  tge : Bool
deriving DecidableEq, Repr, Inhabited

/-- The control fields one by one, for the internal step `Propagate(f)` (spec/20_memory.md rule R45). -/
inductive ControlField where
  | e0bre | e1bre | cc1 | mpred1 | exception1 | ertn1
  | e0hbre | e2bre | cc2 | mpred2 | exception2 | ertn2
  | paused
  | sbrbe | e3brec | e3brew
  | tge
deriving DecidableEq, Repr

/-! ### System registers and software's accesses to them (spec/47_brb_instructions.md rules R157, R158) -/

/-- The System registers, by name. `injection` stands for the registers that hold `InjectionSource`, which
the source does not name (spec/10_state.md rule R35). -/
inductive Reg where
  | brbinf (n : Nat)
  | brbsrc (n : Nat)
  | brbtgt (n : Nat)
  | brbcrEl1 | brbcrEl2 | brbfcrEl1 | brbidr0El1
  | mdcrEl3 | hcrEl2
  | injection
deriving DecidableEq, Repr

/-- A write of one named field, with the value written (rule R157 works field by field). -/
inductive RegWrite where
  | e0bre (v : Bool) | e1bre (v : Bool) | cc1 (v : Bool) | mpred1 (v : Bool)
  | exception1 (v : Bool) | ertn1 (v : Bool)
  | e0hbre (v : Bool) | e2bre (v : Bool) | cc2 (v : Bool) | mpred2 (v : Bool)
  | exception2 (v : Bool) | ertn2 (v : Bool)
  | paused (v : Bool)
  | sbrbe (v : BitVec 2) | e3brec (v : Bool) | e3brew (v : Bool)
  | tge (v : Bool)
  /-- `BRBFCR_EL1.LASTFAILED`, the field with one view. -/
  | lastFailed (v : Bool)
  /-- The opaque remainder of `BRBCR_EL1` (spec/10_state.md rule R23). -/
  | rest1 (v : BitVec 64)
  /-- The opaque remainder of `BRBCR_EL2`. -/
  | rest2 (v : BitVec 64)
  | injValid (v : BitVec 2) | injType (v : BranchType) | injEl (v : BitVec 2)
  | injMpred (v : Bool) | injCcu (v : Bool) | injCc (v : Nat) | injLastFailed (v : Bool)
  | injSrc (v : Addr) | injTgt (v : Addr)
  /-- A write to a record register or to `BRBIDR0_EL1`, which software cannot write. -/
  | readOnly (r : Reg)
deriving DecidableEq, Repr

/-- What a read returns: the named fields of the register read. -/
inductive RegValue where
  | inf (v : BrbInf)
  | address (a : Addr)
  | brbcrEl1 (v : BrbcrEl1) (rest : BitVec 64)
  | brbcrEl2 (v : BrbcrEl2) (rest : BitVec 64)
  | brbfcrEl1 (paused lastFailed : Bool)
  | brbidr0El1 (cc : Nat)
  | mdcrEl3 (v : MdcrEl3)
  | hcrEl2 (tge : Bool)
deriving DecidableEq, Repr

/-- The operations `BRBAccessCheck` is asked about (spec/47_brb_instructions.md rule R161). -/
inductive BrbOp where
  | brbIall | brbInj
  | read (r : Reg)
  | write (r : Reg)
deriving DecidableEq, Repr

/-- The three answers of `BRBAccessCheck` (rule R161). -/
inductive Access where
  | allowed
  | undefined
  | trap (el : EL)
deriving DecidableEq, Repr, Inhabited

/-- What the unit hands back to the PE: the outcome of a `BRB` instruction or of a register access that
did not have its effect, and the value of a register read. -/
inductive Report where
  /-- The transaction failed with cause `ERR` (spec/46_tme_and_speculation.md rule R151). -/
  | transactionFailureErr
  /-- `raise UndefinedInstruction()` (rules R154, R155, R161). -/
  | undefinedInstruction
  /-- `raise SystemInstructionTrap(el)` (same rules). -/
  | systemInstructionTrap (el : EL)
  /-- The value an `MRS` returns (rule R158). -/
  | readValue (r : Reg) (v : RegValue)
deriving DecidableEq, Repr

/-! ### Events (spec/00_scope.md rule R6) -/

/-- The region class of the transaction in progress (spec/10_state.md rule R31). -/
inductive Txn where
  | none | allNP | allP | mixed
deriving DecidableEq, Repr, Inhabited

/-- What an exception return is, in place of the flag `illegal_or_IL` (spec/45_exception_return_records.md
rules R136 to R138). -/
inductive ReturnKind where
  | legal
  /-- "a legal return which sets PSTATE.IL to 1". -/
  | legalSetsIL
  | illegal
deriving DecidableEq, Repr, Inhabited

/-- `TakenBranch` (spec/40_branch_records.md rule R73). -/
structure BranchEvent where
  ctx : Context
  src : Addr
  tgt : Addr
  type : BranchType
  mispredicted : Bool
deriving DecidableEq, Repr, Inhabited

/-- `Exception` (spec/44_exception_records.md rule R128). -/
structure ExceptionEvent where
  fromCtx : Context
  toCtx : Context
  prefRet : Addr
  vector : Addr
  type : BranchType
deriving DecidableEq, Repr, Inhabited

/-- `ExceptionReturn` (spec/45_exception_return_records.md rule R139). -/
structure ReturnEvent where
  fromCtx : Context
  toCtx : Context
  src : Addr
  tgt : Addr
  type : BranchType
  mispredicted : Bool
  kind : ReturnKind
deriving DecidableEq, Repr, Inhabited

/-- The events the PE delivers, and the internal step `Propagate(f)`. What an instruction of the table causes can
be delivered as its event or as the instruction word (`Input.instruction`). -/
inductive Event where
  | takenBranch (b : BranchEvent)
  | exception (e : ExceptionEvent)
  /-- An exception return by an instruction of the class that has no row in the table. -/
  | exceptionReturn (r : ReturnEvent)
  | debugEntry (fromCtx : Context) (src : Addr) (type : BranchType)
  | debugExit (toCtx : Context) (tgt : Addr) (type : BranchType)
  | txnStart
  /-- The transaction commits. -/
  | txnEnd
  | txnFailOrCancel
  /-- `BRB IALL`, executed in `ctx` (spec/47_brb_instructions.md rule R154). -/
  | brbIall (ctx : Context)
  /-- `BRB INJ`, executed in `ctx` (rule R155). -/
  | brbInj (ctx : Context)
  | sysRegWrite (w : RegWrite)
  | sysRegRead (r : Reg)
  /-- A Context synchronization event that no other event or instruction causes. -/
  | contextSync
  /-- A BRBE freeze event (spec/47_brb_instructions.md rule R160). -/
  | freeze
  /-- One PE clock cycle. -/
  | tick (threadActive : Bool)
  /-- The internal step `Propagate(f)` (spec/20_memory.md rule R45). -/
  | propagate (f : ControlField)
deriving DecidableEq, Repr

/-- What the PE presents beside an instruction word: the context the word is executed in, which is the context of
`BrbIall(ctx)` and `BrbInj(ctx)` and the source context of `ExceptionReturn`, and the other arguments of the
`ExceptionReturn` event, which `ERET` alone reads. -/
structure PePort where
  /-- The context the word is executed in. -/
  ctx : Context
  toCtx : Context
  src : Addr
  tgt : Addr
  type : BranchType
  mispredicted : Bool
  kind : ReturnKind
deriving DecidableEq, Repr, Inhabited

/-- One item of the PE's delivery: an event, or an instruction of the opcode table as its bytes with the
PE's port. -/
inductive Input where
  | event (e : Event)
  | instruction (bytes : List Byte) (port : PePort)
deriving DecidableEq, Repr

end Sys2Proof
end

