-- ==== Sys2Proof/Config.lean ====
section
/-! DEFINITION. The parameters of spec/00_scope.md rule R3 and the free values. A parameter is fixed for one
PE: State carries them as plain data (`Params`), so that a statement about every state is one about every
choice of them. A free value (`draw`, `choose`, an open function) is an opaque constant: nothing in Lean
can tell what it is. -/

namespace Sys2Proof

/-- How an open function of the spec is taken: left open, or as the instance that the spec recalls or
recommends (spec/93_implementation_defined.md part B). -/
inductive Open where
  | unspecified
  | recalled
deriving DecidableEq, Repr, Inhabited

/-- The parameters (spec/00_scope.md rule R3). -/
structure Params where
  haveBRBEv1p1 : Bool
  haveEL2 : Bool
  haveEL3 : Bool
  haveAArch32 : Bool
  haveTME : Bool
  multithreaded : Bool
  /-- Number of Branch records, at least 1. -/
  numrec : Nat
  /-- Size in bits of the cycle counter, at least 1. -/
  ccsize : Nat
  /-- Width in bits of `BRBINF<n>_EL1.CC`, at least 1. -/
  ccw : Nat
  /-- Number of values of the finite type `BranchType`, at least 1: a value is its number, below this. -/
  branchTypes : Nat
  /-- `EncodeCC` and the value of `BRBIDR0_EL1.CC`; recalled: GK5. -/
  encodeCC : Open
  /-- `Filtered` beyond `PAUSED`; recalled: nothing beyond `PAUSED` (the instance of the test vectors). -/
  filter : Open
  /-- `StripTag`; recalled: GK12. -/
  stripTag : Open
  /-- `BRBAccessCheck`; recalled: the instance recommended by rule R161. -/
  access : Open
  /-- `FreezeEffect` and its race; recalled: the instance recommended by rule R160, with no race. -/
  freeze : Open
deriving DecidableEq, Repr, Inhabited

/-- `CCMAX` (spec/41_cycle_counting.md rule R86). -/
def Params.ccMax (p : Params) : Nat := 2 ^ p.ccsize - 1

/-- The bounds that rule R3 puts on the parameters; that `BranchType` has a value, the events presuppose. -/
def Params.wf (p : Params) : Bool :=
  decide (1 ≤ p.numrec) && decide (1 ≤ p.ccsize) && decide (1 ≤ p.ccw) && decide (1 ≤ p.branchTypes)

namespace Config

/-! ### The PE this machine is a unit of

IMPLEMENTATION DEFINED or left open by the source; constants with no value anyone can use
(notes/assumptions/1.md). -/

opaque haveBRBEv1p1 : Bool
opaque haveEL2 : Bool
opaque haveEL3 : Bool
opaque haveAArch32 : Bool
opaque haveTME : Bool
opaque multithreaded : Bool
/-- `NUMREC` less one. -/
opaque numrecLessOne : Nat
/-- `CCSIZE` less one. -/
opaque ccsizeLessOne : Nat
/-- `CCW` less one. -/
opaque ccwLessOne : Nat
/-- The number of values of `BranchType`, less one. -/
opaque branchTypesLessOne : Nat

/-- The parameters of the machine after reset: every one open. -/
def params : Params where
  haveBRBEv1p1 := haveBRBEv1p1
  haveEL2 := haveEL2
  haveEL3 := haveEL3
  haveAArch32 := haveAArch32
  haveTME := haveTME
  multithreaded := multithreaded
  numrec := numrecLessOne + 1
  ccsize := ccsizeLessOne + 1
  ccw := ccwLessOne + 1
  branchTypes := branchTypesLessOne + 1
  encodeCC := .unspecified
  filter := .unspecified
  stripTag := .unspecified
  access := .unspecified
  freeze := .unspecified

/-- The PE context at reset, "a parameter of the launch" (spec/10_state.md rule R36). The model launches at
EL1, a level every PE has, Non-secure, AArch64, outside Debug state, EL2 not enabled. DESIGN CHOICE,
notes/assumptions/2.md. -/
def launchContext : Context :=
  { el := .el1, secure := false, aarch32 := false, debug := false, el2Enabled := false }

/-! ### Free values: `draw` and `choose` (spec/00_scope.md rule R5) -/

/-- `choose`: the `k`-th binary choice of a run (spec/93_implementation_defined.md U1, U5, U6). -/
opaque choice (k : Nat) : Bool

/-- `draw`: the invalid half of the `k`-th generated record (spec/10_state.md rule R20, decision D6). -/
opaque drawRecord (k : Nat) : Record

/-- `draw`: the fields of record `n` beside `VALID` that `BRB IALL` leaves after `k` generated records
(spec/47_brb_instructions.md rule R154). -/
opaque drawInvalid (k n : Nat) : Record

/-- `draw`: the `k`-th value that a read of an open record field returns, in a Prohibited region or outside one
(spec/47_brb_instructions.md rule R158). -/
opaque drawRead (inProhibited : Bool) (k : Nat) : Record

/-! ### Open functions (spec/92_eei_decisions.md, list at the end) -/

/-- `EncodeCC` for a counter of `ccsize` bits and a field of `ccw` bits (decision D5). -/
opaque encodeCC (ccsize ccw count : Nat) : Nat

/-- The value of `BRBIDR0_EL1.CC` for a counter of `ccsize` bits (spec/10_state.md rule R24). -/
opaque idr0CC (ccsize : Nat) : Nat

/-- Whether a virtual address contains an address tag (spec/20_memory.md rule R42). -/
opaque hasTag (a : Addr) : Bool

/-- The address with its tag removed, for an address that has one (same rule). -/
opaque removeTag (a : Addr) : Addr

/-- `BRBAccessCheck(ctx, op)` (spec/47_brb_instructions.md rule R161). -/
opaque accessCheck (c : Context) (op : BrbOp) : Access

end Config

end Sys2Proof
end

