-- ==== Sys2Proof/Syntax.lean ====
section
/-! DEFINITION. The instructions, one constructor per row of spec/opcode_table.json
(spec/30_encoding.md rules R57 to R61). -/

namespace Sys2Proof

/-- The four instructions of the table. -/
inductive Instr where
  /-- `BRB IALL`, no operand (rule R57). -/
  | brbIall
  /-- `BRB INJ`, no operand (rule R58). -/
  | brbInj
  /-- `ISB` with its 4-bit option, which no rule reads (rules R59, R61). -/
  | isb (crm : BitVec 4)
  /-- `ERET`, no operand; it stands for the class of exception return instructions (rule R60). -/
  | eret
deriving DecidableEq, Repr

end Sys2Proof
end

