-- ==== Sys2Proof/Decode.lean ====
section
/-! DEFINITION. The decoder, total on any bytes and rejecting by name, and the encoder
(spec/30_encoding.md). The bit patterns are the spec's, which marks them as general knowledge
(notes/assumptions/5.md). -/

namespace Sys2Proof

/-- Why bytes spell no instruction of the table (spec/30_encoding.md rule R62). -/
inductive DecodeError where
  /-- Fewer than four bytes: no instruction word (rule R56). -/
  | truncated
  /-- "unallocated BRB operation": `SYS #1, C7, C2, #op2` with `op2` other than 4 or 5. -/
  | unallocatedBrbOperation
  /-- "BRB with Rt != 31". -/
  | brbWithRtNot31
  /-- A word outside the table: an instruction of the host PE, which reaches the unit as events. -/
  | notInTable
deriving DecidableEq, Repr

/-- What the decoder answers. -/
inductive Decoded where
  | ok (i : Instr) (rest : List Byte)
  | reject (why : DecodeError)
deriving DecidableEq, Repr

/-! ### Words and bytes: little-endian (rule R56) -/

/-- The word stored in four bytes, the first at the lowest address. -/
def wordOfBytes (b0 b1 b2 b3 : Byte) : Word := b3 ++ b2 ++ b1 ++ b0

/-- The four bytes that store a word. -/
def bytesOfWord (w : Word) : List Byte :=
  [w.extractLsb' 0 8, w.extractLsb' 8 8, w.extractLsb' 16 8, w.extractLsb' 24 8]

/-! ### The decoder -/

/-- Bits 31:8 of a word of the `BRB` group: `SYS` with `L = 0`, `op0 = 0b01`, `op1 = 0b001`, `CRn = 0b0111`,
`CRm = 0b0010` (rule R56). -/
def inBrbGroup (w : Word) : Bool :=
  w.extractLsb' 22 10 == 0b1101010100#10 && w.extractLsb' 21 1 == 0#1 && w.extractLsb' 19 2 == 0b01#2
    && w.extractLsb' 16 3 == 0b001#3 && w.extractLsb' 12 4 == 0b0111#4 && w.extractLsb' 8 4 == 0b0010#4

/-- The instruction of a `BRB` word by `op2`, or why there is none (rules R57, R58, R62). -/
def decodeBrb (op2 : BitVec 3) (rt : BitVec 5) : Instr ⊕ DecodeError :=
  if op2 == 4#3 then (if rt == 31#5 then .inl .brbIall else .inr .brbWithRtNot31)
  else if op2 == 5#3 then (if rt == 31#5 then .inl .brbInj else .inr .brbWithRtNot31)
  else .inr .unallocatedBrbOperation

/-- The instruction a word spells (rules R57 to R60, R62). -/
def decodeWord (w : Word) : Instr ⊕ DecodeError :=
  if inBrbGroup w then decodeBrb (w.extractLsb' 5 3) (w.extractLsb' 0 5)
  else if w &&& 0xFFFFF0FF#32 == 0xD50330DF#32 then .inl (.isb (w.extractLsb' 8 4))
  else if w == 0xD69F03E0#32 then .inl .eret
  else .inr .notInTable

/-- The decoder: the first instruction of a list of bytes and the bytes after it. -/
def decode : List Byte → Decoded
  | b0 :: b1 :: b2 :: b3 :: rest =>
    match decodeWord (wordOfBytes b0 b1 b2 b3) with
    | .inl i => .ok i rest
    | .inr why => .reject why
  | _ => .reject .truncated

/-! ### The encoder -/

/-- A word of the `SYS` format (rule R56). -/
def sysWord (op1 : BitVec 3) (crn crm : BitVec 4) (op2 : BitVec 3) (rt : BitVec 5) : Word :=
  0b1101010100#10 ++ 0#1 ++ 0b01#2 ++ op1 ++ crn ++ crm ++ op2 ++ rt

/-- The word of an instruction (rules R57 to R60). -/
def encodeWord : Instr → Word
  | .brbIall => sysWord 1 7 2 4 31
  | .brbInj => sysWord 1 7 2 5 31
  | .isb crm => 0b11010101000000110011#20 ++ crm ++ 0b11011111#8
  | .eret => 0b11010110100111110000001111100000#32

/-- The bytes of an instruction as they stand in memory. -/
def encode (i : Instr) : List Byte := bytesOfWord (encodeWord i)

/-- The instruction the decoder reads from a word numbered as spec/opcode_table.json numbers it; bits at
and above `nbits` are 0. -/
def decodeTableWord (nbits w : Nat) : Option Instr :=
  match decode (bytesOfWord (BitVec.ofNat 32 (w % 2 ^ nbits))) with
  | .ok i _ => some i
  | .reject _ => none

end Sys2Proof
end

