-- ==== Sys2Proof/Machine/Regions.lean ====
section
/-! DEFINITION. BRBE Prohibited regions and the enables of each Exception level, as functions of the
parameters, one view of the controls and a context (spec/43_prohibited_regions.md; the enables are
spec/44_exception_records.md rule R121 and spec/45_exception_return_records.md rule R133). -/

namespace Sys2Proof.Machine

open Sys2Proof

/-- Self-hosted EL3 branch recording is enabled (rule R111). -/
def el3RecEnabled (p : Params) (v : Controls) : Bool :=
  p.haveBRBEv1p1 && p.haveEL3 && (v.mdcrEl3.e3brec != v.mdcrEl3.e3brew)

/-- `MDCR_EL3.SBRBE` prohibits EL0, EL1 and EL2 (rule R108, `SecProhibit`). -/
def secProhibit (p : Params) (v : Controls) (c : Context) : Bool :=
  p.haveEL3 && (v.mdcrEl3.sbrbe == 0b00#2 || (v.mdcrEl3.sbrbe == 0b01#2 && c.secure))

/-- EL0 recording is under `BRBCR_EL2.E0HBRE`: EL2 is enabled in the current Security state and
`HCR_EL2.TGE` is 1 (rule R115). -/
def el0UnderEl2 (v : Controls) (c : Context) : Bool := c.el2Enabled && v.tge

/-- Execution in a context is a BRBE Prohibited region (rule R108). -/
def prohibited (p : Params) (v : Controls) (c : Context) : Bool :=
  if c.aarch32 then true
  else if c.debug then true
  else match c.el with
    | .el3 => !p.haveBRBEv1p1 || !el3RecEnabled p v
    | .el2 => !v.brbcrEl2.e2bre || secProhibit p v c
    | .el1 => !v.brbcrEl1.e1bre || secProhibit p v c
    | .el0 => (!el0UnderEl2 v c && !v.brbcrEl1.e0bre) || (el0UnderEl2 v c && !v.brbcrEl2.e0hbre)
        || secProhibit p v c

/-- The necessary condition for a record of an exception, by its target level (rule R121). No exception
targets EL0. -/
def exceptionEnabled (p : Params) (v : Controls) : EL → Bool
  | .el0 => false
  | .el1 => v.brbcrEl1.exception
  | .el2 => v.brbcrEl2.exception
  | .el3 => p.haveBRBEv1p1 && el3RecEnabled p v

/-- The necessary condition for a record of an exception return, by the level it is executed at
(rule R133). None is executed at EL0. -/
def returnEnabled (p : Params) (v : Controls) : EL → Bool
  | .el0 => false
  | .el1 => v.brbcrEl1.ertn
  | .el2 => v.brbcrEl2.ertn
  | .el3 => p.haveBRBEv1p1 && el3RecEnabled p v

/-- What a transition captures, by whether its source and its target lie in a Prohibited region
(spec/40_branch_records.md rule R71). -/
def captureOf (srcProhibited tgtProhibited : Bool) (src tgt : Addr) (tgtEl : EL) : Option Capture :=
  match srcProhibited, tgtProhibited with
  | false, false => some (.full src tgt tgtEl)
  | false, true => some (.halfSource src)
  | true, false => some (.halfTarget tgt tgtEl)
  | true, true => none

/-- Cycle counting is enabled (spec/41_cycle_counting.md rule R97, `CCEnabled`). -/
def ccEnabled (p : Params) (v : Controls) : Bool := v.brbcrEl1.cc && (!p.haveEL2 || v.brbcrEl2.cc)

/-- One field of `synced` catches up with `written` (spec/20_memory.md rule R45, `Propagate(f)`). -/
def copyField (f : ControlField) (written synced : Controls) : Controls :=
  match f with
  | .e0bre => { synced with brbcrEl1.e0bre := written.brbcrEl1.e0bre }
  | .e1bre => { synced with brbcrEl1.e1bre := written.brbcrEl1.e1bre }
  | .cc1 => { synced with brbcrEl1.cc := written.brbcrEl1.cc }
  | .mpred1 => { synced with brbcrEl1.mpred := written.brbcrEl1.mpred }
  | .exception1 => { synced with brbcrEl1.exception := written.brbcrEl1.exception }
  | .ertn1 => { synced with brbcrEl1.ertn := written.brbcrEl1.ertn }
  | .e0hbre => { synced with brbcrEl2.e0hbre := written.brbcrEl2.e0hbre }
  | .e2bre => { synced with brbcrEl2.e2bre := written.brbcrEl2.e2bre }
  | .cc2 => { synced with brbcrEl2.cc := written.brbcrEl2.cc }
  | .mpred2 => { synced with brbcrEl2.mpred := written.brbcrEl2.mpred }
  | .exception2 => { synced with brbcrEl2.exception := written.brbcrEl2.exception }
  | .ertn2 => { synced with brbcrEl2.ertn := written.brbcrEl2.ertn }
  | .paused => { synced with paused := written.paused }
  | .sbrbe => { synced with mdcrEl3.sbrbe := written.mdcrEl3.sbrbe }
  | .e3brec => { synced with mdcrEl3.e3brec := written.mdcrEl3.e3brec }
  | .e3brew => { synced with mdcrEl3.e3brew := written.mdcrEl3.e3brew }
  | .tge => { synced with tge := written.tge }

end Sys2Proof.Machine
end

