-- ==== Sys2Proof/WellFormed.lean ====
section
/-! DEFINITION. What is well formed: instructions (every one is, spec/30_encoding.md rule R61), and the
items the PE delivers, each checked against what the spec says is never delivered. -/

namespace Sys2Proof

/-- Every instruction is well formed: three have no operand, and every value of `ISB`'s option is an `ISB`
(spec/30_encoding.md rule R61). -/
def Instr.wellFormed : Instr → Bool
  | .brbIall => true
  | .brbInj => true
  | .isb _ => true
  | .eret => true

/-- Why an item of the PE's delivery is no input of the unit. -/
inductive IllegalInput where
  /-- A context at EL2, or with EL2 enabled, on a PE without EL2 (decision D7). -/
  | contextNeedsEL2
  /-- A context at EL3 on a PE without EL3 (decision D7). -/
  | contextNeedsEL3
  /-- An AArch32 context on a PE with no AArch32 (spec/00_scope.md rule R3, `HaveAArch32`). -/
  | contextNeedsAArch32
  /-- A record type that is no value of `BranchType` (spec/00_scope.md rule R3). -/
  | unknownBranchType
  /-- An exception whose target is EL0 (spec/44_exception_records.md rule R128). -/
  | exceptionToEL0
  /-- An exception return executed at EL0 (spec/45_exception_return_records.md rule R133). -/
  | exceptionReturnAtEL0
  /-- A transaction event without the extension (spec/46_tme_and_speculation.md, opening). -/
  | transactionWithoutTME
  /-- An inactive clock cycle on a PE that is not multithreaded (spec/41_cycle_counting.md rule R88). -/
  | inactiveSingleThread
deriving DecidableEq, Repr

/-- The first check a context fails. -/
def Context.illegal (p : Params) (c : Context) : Option IllegalInput :=
  if (c.el == .el2 || c.el2Enabled) && !p.haveEL2 then some .contextNeedsEL2
  else if c.el == .el3 && !p.haveEL3 then some .contextNeedsEL3
  else if c.aarch32 && !p.haveAArch32 then some .contextNeedsAArch32
  else none

/-- The check of a record type. -/
def BranchType.illegal (p : Params) (t : BranchType) : Option IllegalInput :=
  if Nat.ble p.branchTypes t then some .unknownBranchType else none

/-- The check of a register write: a type written into the injection source is one. -/
def RegWrite.illegal (p : Params) : RegWrite → Option IllegalInput
  | .injType t => BranchType.illegal p t
  | _ => none

/-- The first check an event fails. An exception return has its `toCtx` checked as it is delivered, that of an illegal
return too. DESIGN CHOICE, notes/assumptions/34.md. -/
def Event.illegal (p : Params) : Event → Option IllegalInput
  | .takenBranch b => (b.ctx.illegal p).or (BranchType.illegal p b.type)
  | .exception e =>
    if e.toCtx.el == .el0 then some .exceptionToEL0
    else ((e.fromCtx.illegal p).or (e.toCtx.illegal p)).or (BranchType.illegal p e.type)
  | .exceptionReturn r =>
    if r.fromCtx.el == .el0 then some .exceptionReturnAtEL0
    else ((r.fromCtx.illegal p).or (r.toCtx.illegal p)).or (BranchType.illegal p r.type)
  | .debugEntry c _ t => (c.illegal p).or (BranchType.illegal p t)
  | .debugExit c _ t => (c.illegal p).or (BranchType.illegal p t)
  | .txnStart => if p.haveTME then none else some .transactionWithoutTME
  | .txnEnd => if p.haveTME then none else some .transactionWithoutTME
  | .txnFailOrCancel => if p.haveTME then none else some .transactionWithoutTME
  | .brbIall c => c.illegal p
  | .brbInj c => c.illegal p
  | .sysRegWrite w => w.illegal p
  | .sysRegRead _ => none
  | .contextSync => none
  | .freeze => none
  | .tick active => if active || p.multithreaded then none else some .inactiveSingleThread
  | .propagate _ => none

/-- The first check that what the PE presents beside a word fails; `toCtx` is checked as it is presented, for an illegal
return too. DESIGN CHOICE, notes/assumptions/34.md. -/
def PePort.illegal (p : Params) (port : PePort) : Option IllegalInput :=
  ((port.ctx.illegal p).or (port.toCtx.illegal p)).or (BranchType.illegal p port.type)

/-- The first check an item of the delivery fails. -/
def Input.illegal (p : Params) : Input → Option IllegalInput
  | .event e => e.illegal p
  | .instruction _ port => port.illegal p

end Sys2Proof
end

