-- ==== Sys2Proof/Machine/State.lean ====
section
/-! DEFINITION. The machine's state, the reasons a step can stop, and the state after reset
(spec/10_state.md). State is plain data. -/

namespace Sys2Proof.Machine

open Sys2Proof

/-- How many free values of each sort have been drawn: the model's own counters, no state of the
hardware. Their value is that of no register (notes/assumptions/6.md). -/
structure Free where
  /-- Binary choices made. -/
  choice : Nat
  /-- Records generated. -/
  record : Nat
  /-- Reads outside Prohibited regions. -/
  read : Nat
  /-- Reads in Prohibited regions. -/
  readProhibited : Nat
deriving DecidableEq, Repr, Inhabited

/-- The state of the unit, of the PE context it follows, and of the delivery between them. INVENTORY.md
lists each field with its rule and its reset value. -/
structure State where
  /-- The parameters of the PE; no step changes them (spec/00_scope.md rule R3). -/
  params : Params
  /-- `rec[0 .. NUMREC-1]`, the most recent first (spec/10_state.md rules R12, R34). -/
  records : List Record
  /-- What software reads of the control fields (rule R32). -/
  written : Controls
  /-- What the unit's own reads return (rule R32). -/
  synced : Controls
  /-- The opaque remainder of `BRBCR_EL1` (rule R23). -/
  rest1 : BitVec 64
  /-- The opaque remainder of `BRBCR_EL2` (rule R23). -/
  rest2 : BitVec 64
  /-- `BRBFCR_EL1.LASTFAILED` (rule R25). -/
  lastFailed : Bool
  /-- The cycle counter (rule R29). -/
  cyc : Nat
  /-- The next record is "the first Branch record after" one of the four causes (rule R30). -/
  ccUnknown : Bool
  /-- The region class of the transaction in progress (rule R31). -/
  txn : Txn
  /-- The PE's current execution is in a Prohibited region (rule R33). -/
  inProhibited : Bool
  /-- `InjectionSource` (rule R35). -/
  injection : Record
  /-- The PE's current context (rules R28, R36). -/
  ctx : Context
  /-- What the PE presents beside the instruction it executes (spec/00_scope.md rule R6). -/
  port : PePort
  /-- What the PE delivers from here on, the next item first (spec/00_scope.md rule R6). -/
  inputs : List Input
  /-- What the unit has handed back to the PE, the latest first (spec/47_brb_instructions.md). -/
  reports : List Report
  /-- The model's own counters of free values. -/
  free : Free
deriving DecidableEq, Repr

/-- The unit faults on nothing: "The BRBE raises no exception of its own. No statement of the source has
the unit fault, trap or signal" (spec/60_exceptions.md rule R166). The type has no constructor: no step of
the model ends in a fault, which is safe. -/
inductive Fault where
deriving DecidableEq, Repr

/-- Why an input has no meaning. Every one is safe: the model stops, so that nothing is claimed of what
comes after. -/
inductive Refusal where
  /-- Raised by `exec` for an instruction that has no meaning yet. No arm raises it. -/
  | notModelled (mnemonic : String)
  /-- Raised by `step` when the PE presents bytes that spell no instruction of the table
  (spec/30_encoding.md rule R62). -/
  | undecodable (why : DecodeError)
  /-- Raised by `step` when the PE delivers what the spec says is never delivered (`Input.illegal`). -/
  | illegalInput (why : IllegalInput)
  /-- Raised by `ERET` at EL0: "the model refuses an `ExceptionReturn` event with `from.el == 0`"
  (spec/45_exception_return_records.md rule R133). -/
  | exceptionReturnAtEL0
  /-- Raised by a register write to a record register or to `BRBIDR0_EL1`
  (spec/47_brb_instructions.md rule R157). -/
  | readOnlyRegister (r : Reg)
  /-- Raised by an access to a register of an Exception level the PE does not have (spec/10_state.md rules
  R22, R26). -/
  | absentRegister (r : Reg)
  /-- Raised by a read of record `n` with `n >= NUMREC` (spec/47_brb_instructions.md rule R158). -/
  | recordOutOfRange (r : Reg)
  /-- Raised by a read of the registers that hold `InjectionSource`: the spec gives software only their
  write (spec/10_state.md rule R35, spec/47_brb_instructions.md rule R158). -/
  | unreadableRegister (r : Reg)
deriving DecidableEq, Repr

/-! ### Reset (spec/10_state.md rule R36) -/

/-- A record with every field 0. -/
def zeroRecord : Record where
  inf := { valid := 0, type := 0, el := 0, mpred := false, ccu := false, cc := 0, lastFailed := false }
  src := 0
  tgt := 0

/-- Every control field 0. -/
def zeroControls : Controls where
  brbcrEl1 := { e0bre := false, e1bre := false, cc := false, mpred := false, exception := false,
                ertn := false }
  brbcrEl2 := { e0hbre := false, e2bre := false, cc := false, mpred := false, exception := false,
                ertn := false }
  paused := false
  mdcrEl3 := { sbrbe := 0, e3brec := false, e3brew := false }
  tge := false

/-- The port when the PE presents nothing of its own: the word is executed in the current context, an `ERET` is a
legal return to it, and the inputs `mispredicted` (which rule R100 leaves free), the two addresses and the type are
0. DESIGN CHOICE, notes/assumptions/26.md: any other value reaches the machine through a delivered port. -/
def idlePort (c : Context) : PePort :=
  { ctx := c, toCtx := c, src := 0, tgt := 0, type := 0, mispredicted := false, kind := .legal }

/-- The machine right after reset on a PE with parameters `p`, launched in context `c`. Rule R36 fixes
`ccUnknown`, `txn`, `inProhibited` and that both views agree; every value it leaves open is 0, DESIGN
CHOICE, notes/assumptions/2.md. -/
def State.resetOn (p : Params) (c : Context) : State where
  params := p
  records := List.replicate p.numrec zeroRecord
  written := zeroControls
  synced := zeroControls
  rest1 := 0
  rest2 := 0
  lastFailed := false
  cyc := 0
  ccUnknown := true
  txn := .none
  inProhibited := prohibited p zeroControls c
  injection := zeroRecord
  ctx := c
  port := idlePort c
  inputs := []
  reports := []
  free := { choice := 0, record := 0, read := 0, readProhibited := 0 }

/-- The machine right after reset. -/
def State.reset : State := State.resetOn Config.params Config.launchContext

end Sys2Proof.Machine

/-! ### Open functions of the whole state (spec/92_eei_decisions.md D8, D20) -/

namespace Sys2Proof.Config

open Sys2Proof.Machine

/-- What `FreezeEffect` leaves in the state of the unit. -/
structure FreezeOutcome where
  written : Controls
  synced : Controls
  rest1 : BitVec 64
  rest2 : BitVec 64
  lastFailed : Bool
  cyc : Nat
  ccUnknown : Bool
  txn : Txn
  injection : Record
deriving DecidableEq, Repr, Inhabited

/-- `Filtered(event, state)` beyond what `PAUSED` filters (spec/43_prohibited_regions.md rule R117). -/
opaque filtered (e : Event) (s : State) : Bool

/-- `FreezeEffect`, an open state transformer (spec/00_scope.md rule R3, spec/47_brb_instructions.md rule R160). It
generates no record, so that the buffer is no part of what it leaves; notes/assumptions/11.md. -/
opaque freezeEffect (s : State) : FreezeOutcome

/-- One operation both permits and prevents a freeze event: from the state before it to the state after its
Context synchronization event (spec/20_memory.md rule R49). -/
opaque freezeRace (before after : State) : Bool

end Sys2Proof.Config
end

