-- ==== Sys2Proof/Machine/Operands.lean ====
section
/-! DEFINITION. What the instructions and events take from outside the unit: addresses without their tag,
the answer of the access check, the choice between two outcomes, the filter, and the arguments that the PE
presents beside an `ERET`. -/

namespace Sys2Proof.Machine

open Sys2Proof

/-- `StripTag`: a target address as a record holds it; the identity on an address with no tag
(spec/20_memory.md rule R42). The recalled form is spec/93_implementation_defined.md GK12. -/
def stripTag (p : Params) (a : Addr) : Addr :=
  match p.stripTag with
  | .unspecified => if Config.hasTag a then Config.removeTag a else a
  | .recalled => (a.extractLsb' 0 56).signExtend 64

/-- `BRBAccessCheck(ctx, op)` (spec/47_brb_instructions.md rule R161). The recalled form is the one the rule
recommends. -/
def brbAccessCheck (p : Params) (c : Context) (op : BrbOp) : Access :=
  match p.access with
  | .unspecified => Config.accessCheck c op
  | .recalled => if c.el == .el0 then .undefined else .allowed

/-- `choose {a, b}` at the `k`-th choice of the run; void when both are the same
(spec/44_exception_records.md rule R128). -/
def chooseBool (k : Nat) (a b : Bool) : Bool := if a == b then a else if Config.choice k then a else b

/-- `Filtered(event, state)`: `PAUSED` in the unit's view filters every event, the rest is open
(spec/43_prohibited_regions.md rule R117). -/
def isFiltered (e : Event) (s : State) : Bool :=
  s.synced.paused ||
    match s.params.filter with
    | .unspecified => Config.filtered e s
    | .recalled => false

/-- A record count kept within the `CCW` bits of its field (spec/10_state.md rule R18). -/
def fitCC (p : Params) (n : Nat) : Nat := n % 2 ^ p.ccw

/-- A drawn record, its count within its field and its type one of `BranchType`. -/
def fitRecord (p : Params) (r : Record) : Record :=
  { r with inf.cc := fitCC p r.inf.cc, inf.type := r.inf.type % p.branchTypes }

/-- The free value of a register read: one sequence for reads in Prohibited regions, one for the others, so that
no read outside depends on what ran inside (spec/40_branch_records.md rule R74, last part). -/
def readDraw (s : State) : Record :=
  fitRecord s.params
    (Config.drawRead s.inProhibited (if s.inProhibited then s.free.readProhibited else s.free.read))

/-- The counters after a register read. -/
def spendRead (s : State) : Free :=
  if s.inProhibited then { s.free with readProhibited := s.free.readProhibited + 1 }
  else { s.free with read := s.free.read + 1 }

/-- The arguments of the `ExceptionReturn` event that an `ERET` delivers: what the PE presents beside the word
(spec/45_exception_return_records.md rule R139). -/
def portReturn (s : State) : ReturnEvent where
  fromCtx := s.port.ctx
  toCtx := s.port.toCtx
  src := s.port.src
  tgt := s.port.tgt
  type := s.port.type
  mispredicted := s.port.mispredicted
  kind := s.port.kind

/-- The context an exception return loads: an illegal return stays where it is "regardless of where the
return was attempting to return to" (spec/45_exception_return_records.md rules R137, R138). That a delivered `toCtx`
other than `fromCtx` is overridden there is a DESIGN CHOICE, notes/assumptions/34.md. -/
def loadedCtx (r : ReturnEvent) : Context :=
  match r.kind with
  | .legal => r.toCtx
  | .legalSetsIL => r.toCtx
  | .illegal => r.fromCtx

end Sys2Proof.Machine
end

