-- ==== Sys2Proof/Machine/Flags.lean ====
section
/-! DEFINITION. The computed fields of a record: the cycle count (spec/41_cycle_counting.md) and the
misprediction bit (spec/42_mispredicted_branches.md). The unit writes no condition flag. -/

namespace Sys2Proof.Machine

open Sys2Proof

/-- The encoding of a count that the spec recalls: an 8-bit mantissa under a 6-bit exponent, lower bits
dropped (spec/93_implementation_defined.md GK5). -/
def recalledEncodeCC (c : Nat) : Nat :=
  if c < 256 then c
  else
    let k := Nat.log2 c
    (k - 7) * 256 + (c / 2 ^ (k - 8)) % 256

/-- `EncodeCC`: a count not above `CCMAX` as the `CC` field holds it (spec/41_cycle_counting.md rule R94). -/
def encodeCC (p : Params) (c : Nat) : Nat :=
  fitCC p (match p.encodeCC with
    | .unspecified => Config.encodeCC p.ccsize p.ccw c
    | .recalled => recalledEncodeCC c)

/-- The constant `BRBIDR0_EL1.CC` (spec/10_state.md rule R24; recalled for 20 bits in GK5). -/
def idr0CC (p : Params) : Nat :=
  match p.encodeCC with
  | .unspecified => Config.idr0CC p.ccsize
  | .recalled => if p.ccsize == 20 then 0b0101 else Config.idr0CC p.ccsize

/-- `CycleFields()`: `CCU` and `CC` of the record generated now: unknown, all ones, or encoded
(spec/41_cycle_counting.md rules R91 to R94, R97). -/
def cycleFields (s : State) : Bool × Nat :=
  if !ccEnabled s.params s.synced || s.ccUnknown then (true, 0)
  else if s.cyc > s.params.ccMax then (false, 2 ^ s.params.ccw - 1)
  else (false, encodeCC s.params s.cyc)

/-- `MPredField` for a branch instruction or an exception return (spec/42_mispredicted_branches.md rules
R101, R105). -/
def branchMPred (p : Params) (v : Controls) (mispredicted : Bool) : Bool :=
  if p.haveEL2 && !v.brbcrEl2.mpred then false
  else if !v.brbcrEl1.mpred then false
  else mispredicted

/-- `MPredField` for an exception (rule R102). -/
def exceptionMPred : Bool := false

/-- `MPredField` for Debug state entry and exit (rule R105, decision D10). -/
def debugMPred : Bool := false

end Sys2Proof.Machine
end

