-- ==== Sys2Proof/Machine/Ops.lean ====
section
/-! DEFINITION. The named operations over the state: pushing and generating a record, the region
bookkeeping, the Context synchronization event, taking an exception and returning from one, the failure of a
transaction, and the delivery of the next input. The unit makes no memory access and has no general
register (spec/20_memory.md rule R40, spec/10_state.md rule R10): there is no operation over either. -/

namespace Sys2Proof.Machine

open Sys2Proof

/-- The unit hands something back to the PE. -/
def report (r : Report) (s : State) : State := { s with reports := r :: s.reports }

/-! ### Records -/

/-- `Push(r)`: every record moves up by one, the oldest is lost (spec/10_state.md rule R34). -/
def push (r : Record) (s : State) : State := { s with records := (r :: s.records).take s.params.numrec }

/-- `BRBINF<n>_EL1.VALID` of a capture (spec/40_branch_records.md rules R67 to R69). -/
def captureValid : Capture → BitVec 2
  | .full _ _ _ => 0b11
  | .halfSource _ => 0b10
  | .halfTarget _ _ => 0b01

/-- The record of a capture, its open half taken from `drawn` (spec/40_branch_records.md rules R74, R76). -/
def captureRecord (p : Params) (c : Capture) (type : BranchType) (mpred ccu : Bool) (cc : Nat)
    (lastFailed : Bool) (drawn : Record) : Record :=
  { inf := { valid := captureValid c
             type := type
             el := match c with
               | .full _ _ el => el.bits
               | .halfSource _ => drawn.inf.el
               | .halfTarget _ el => el.bits
             mpred := mpred
             ccu := ccu
             cc := cc
             lastFailed := lastFailed }
    src := match c with
      | .full src _ _ => src
      | .halfSource src => src
      | .halfTarget _ _ => drawn.src
    tgt := match c with
      | .full _ tgt _ => stripTag p tgt
      | .halfSource _ => drawn.tgt
      | .halfTarget tgt _ => stripTag p tgt }

/-- The record that `GenerateRecord` builds in a state (spec/40_branch_records.md rule R74). -/
def newRecord (c : Capture) (type : BranchType) (mpred : Bool) (s : State) : Record :=
  captureRecord s.params c type mpred (cycleFields s).1 (cycleFields s).2 s.lastFailed
    (Config.drawRecord s.free.record)

/-- `GenerateRecord` (spec/40_branch_records.md rule R74): one atomic step. -/
def generateRecord (c : Capture) (type : BranchType) (mpred : Bool) (s : State) : State :=
  { push (newRecord c type mpred s) s with
    lastFailed := false
    cyc := 0
    ccUnknown := false
    free.record := s.free.record + 1 }

/-- Every record from place `n` on invalid, its other fields drawn (spec/47_brb_instructions.md rule R154). -/
def invalidated (p : Params) (k n : Nat) : List Record → List Record
  | [] => []
  | _ :: rs =>
    { fitRecord p (Config.drawInvalid k n) with inf.valid := 0b00 } :: invalidated p k (n + 1) rs

/-! ### Regions and synchronization -/

/-- A transaction's class once the region changes inside it (spec/46_tme_and_speculation.md rule R153). -/
def mixTxn : Txn → Txn
  | .none => .none
  | .allNP => .mixed
  | .allP => .mixed
  | .mixed => .mixed

/-- `Rebook(before, after)`: run when a `synced` control or the PE context may have changed; `s` holds the
values after (spec/41_cycle_counting.md rule R96; the transaction class is rule R153). -/
def rebook (before : Controls) (s : State) : State :=
  let nowProhibited := prohibited s.params s.synced s.ctx
  let countingEnabled := !ccEnabled s.params before && ccEnabled s.params s.synced
  let unpaused := before.paused && !s.synced.paused
  let exited := s.inProhibited && !nowProhibited
  { s with
    ccUnknown := s.ccUnknown || countingEnabled || unpaused || exited
    inProhibited := nowProhibited
    txn := if s.inProhibited == nowProhibited then s.txn else mixTxn s.txn }

/-- A Context synchronization event: `Propagate` for every field, then `Rebook` (spec/20_memory.md rule
R45). -/
def contextSync (s : State) : State := rebook s.synced { s with synced := s.written }

/-- The internal step `Propagate(f)` (spec/20_memory.md rule R45). -/
def propagate (f : ControlField) (s : State) : State :=
  rebook s.synced { s with synced := copyField f s.written s.synced }

/-- The PE moves to a context with no Context synchronization event (Debug state entry and exit,
spec/44_exception_records.md rule R129, spec/45_exception_return_records.md rule R140). -/
def moveTo (c : Context) (s : State) : State := rebook s.synced { s with ctx := c }

/-- The transaction's class after an open `FreezeEffect`: a freeze event starts no transaction, and a class that
it changes is no longer that of the whole transaction (spec/46_tme_and_speculation.md rule R153). -/
def freezeTxn (txn effect : Txn) : Txn :=
  if txn == .none then .none
  else if effect == .none then .none
  else if effect == txn then txn
  else .mixed

/-- What a freeze event leaves: `FreezeEffect`, within what other rules fix of the fields it may change (a count
that one of the causes of spec/41_cycle_counting.md rule R92 makes unknown stays unknown; the injection source
keeps the widths of its fields), recalled as `PAUSED <- 1` in both views (spec/47_brb_instructions.md rule R160;
notes/assumptions/11.md). -/
def freezeOutcome (s : State) : Config.FreezeOutcome :=
  match s.params.freeze with
  | .unspecified =>
    let o := Config.freezeEffect s
    { o with
      ccUnknown := s.ccUnknown || o.ccUnknown
      txn := freezeTxn s.txn o.txn
      injection := fitRecord s.params o.injection }
  | .recalled =>
    { written := { s.written with paused := true }
      synced := { s.synced with paused := true }
      rest1 := s.rest1
      rest2 := s.rest2
      lastFailed := s.lastFailed
      cyc := s.cyc
      ccUnknown := s.ccUnknown
      txn := s.txn
      injection := s.injection }

/-- A BRBE freeze event: it generates no record (spec/47_brb_instructions.md rule R160). -/
def freeze (s : State) : State :=
  rebook s.synced
    { s with
      written := (freezeOutcome s).written
      synced := (freezeOutcome s).synced
      rest1 := (freezeOutcome s).rest1
      rest2 := (freezeOutcome s).rest2
      lastFailed := (freezeOutcome s).lastFailed
      cyc := (freezeOutcome s).cyc
      ccUnknown := (freezeOutcome s).ccUnknown
      txn := (freezeOutcome s).txn
      injection := (freezeOutcome s).injection }

/-! ### Taking an exception and returning from one -/

/-- The race of spec/20_memory.md rule R49 arises between the state before an operation and the state after
its Context synchronization event. The recalled freeze event arrives on its own only. -/
def freezeRaces (before after : State) : Bool :=
  match before.params.freeze with
  | .unspecified => Config.freezeRace before after
  | .recalled => false

/-- The freeze event of a race: whether it occurs, and whether before or after the record of the same
operation, is chosen (spec/20_memory.md rule R49, spec/60_exceptions.md rule R169). The spec does not say where
before the record it stands. DESIGN CHOICE, notes/assumptions/11.md: after the operation's region and enable
checks, ahead of everything else that the record reads (the filter, the cycle count, the `MPRED` controls and
`LASTFAILED`). -/
def racingFreeze (k : Nat) (race beforeRecord : Bool) (s : State) : State :=
  if race && Config.choice k && Config.choice (k + 1) == beforeRecord then freeze s else s

/-- The Context synchronization event and the change of context that an exception and an exception return
share: every field propagates, the context becomes `toCtx`, then `Rebook`; three choices are spent. `Rebook` alone sets
the unknown flag, as the procedures of rules R128 and R139 have it: where the PE was in no Prohibited region before and
the source is Prohibited on the new controls alone, it sets none, so that a Half-target record may have `CCU` 0 although
the prose of rule R139 says 1. DESIGN CHOICE, notes/assumptions/32.md. -/
def enterContext (toCtx : Context) (s : State) : State :=
  rebook s.synced
    { s with synced := s.written, ctx := toCtx, free.choice := s.free.choice + 3 }

/-- The source side of an exception or exception return lies in a Prohibited region: judged on the controls
as they stand before the operation's own synchronization or after it (spec/20_memory.md rule R47). The early reading
admits a Half-target record of an exception return from EL3 when a pending write of `MDCR_EL3` enables EL3 recording,
against the "never" of spec/45_exception_return_records.md rule R141, notes/assumptions/33.md; and a Half record of an
illegal return when a pending write changes the region of its level, against the "Full record or none" of rule R138,
notes/assumptions/36.md. DESIGN CHOICE, both. -/
def sourceProhibited (fromCtx : Context) (s : State) : Bool :=
  chooseBool s.free.choice (prohibited s.params s.synced fromCtx) (prohibited s.params s.written fromCtx)

/-- The record of a transition, if it generates one, in the state after its synchronization: no record from
Prohibited to Prohibited, none unless enabled, none when filtered. The `MPRED` controls are read here, with the
filter and the cycle count. -/
def recordTransition (e : Event) (capture : Option Capture) (enabled : Bool) (type : BranchType)
    (mpred : Params → Controls → Bool) (s : State) : State :=
  match capture with
  | none => s
  | some c => if enabled && !isFiltered e s then generateRecord c type (mpred s.params s.synced) s else s

/-- What an exception and an exception return share (spec/44_exception_records.md rule R128,
spec/45_exception_return_records.md rule R139): the source-side check, the synchronization with the change of
context, then everything else on the new values, with a racing freeze event before the record or after it. -/
def transition (e : Event) (fromCtx toCtx : Context) (src tgt : Addr) (type : BranchType)
    (enabled mpred : Params → Controls → Bool) (s : State) : State :=
  let sp := sourceProhibited fromCtx s
  let s1 := enterContext toCtx s
  let tp := prohibited s1.params s1.synced toCtx
  let race := freezeRaces s s1
  racingFreeze (s.free.choice + 1) race false
    (recordTransition e (captureOf sp tp src tgt toCtx.el) (enabled s1.params s1.synced) type mpred
      (racingFreeze (s.free.choice + 1) race true s1))

/-- The unit's part in taking an exception (spec/44_exception_records.md rule R128). The PE's own part (what it
saves, where it goes) is the PE's (spec/60_exceptions.md rule R170). -/
def takeException (e : ExceptionEvent) (s : State) : State :=
  transition (.exception e) e.fromCtx e.toCtx e.prefRet e.vector e.type
    (fun p v => exceptionEnabled p v e.toCtx.el) (fun _ _ => exceptionMPred) s

/-- The unit's part in an exception return (spec/45_exception_return_records.md rule R139). The PE moves to
`loadedCtx`; the open filter is handed the event as delivered, with its `toCtx` whatever the return loads. DESIGN CHOICE
for an illegal return delivered with another `toCtx` than `fromCtx`, notes/assumptions/34.md. -/
def returnFromException (r : ReturnEvent) (s : State) : State :=
  transition (.exceptionReturn r) r.fromCtx (loadedCtx r) r.src r.tgt r.type
    (fun p v => returnEnabled p v r.fromCtx.el) (fun p v => branchMPred p v r.mispredicted) s

/-! ### Transactions -/

/-- A transaction fails or is canceled (spec/46_tme_and_speculation.md rules R145 to R147, R149, R153). -/
def txnFailOrCancel (s : State) : State :=
  match s.txn with
  | .none => s
  | .allNP => { s with lastFailed := true, txn := .none }
  | .allP => { s with txn := .none }
  | .mixed =>
    { s with
      lastFailed := chooseBool s.free.choice true s.lastFailed
      txn := .none
      free.choice := s.free.choice + 1 }

/-- The guard that the two `BRB` instructions share, executed in `ctx`: Transactional state first, then
`BRBAccessCheck` (spec/47_brb_instructions.md rules R154, R155, R161). -/
def guardedBrb (op : BrbOp) (ctx : Context) (effect : State → State) (s : State) : State :=
  if s.txn == .none then
    match brbAccessCheck s.params ctx op with
    | .allowed => effect s
    | .undefined => report .undefinedInstruction s
    | .trap el => report (.systemInstructionTrap el) s
  else txnFailOrCancel (report .transactionFailureErr s)

/-! ### The delivery -/

/-- The next item of the PE's delivery, and the state without it. -/
def nextInput (s : State) : Option (Input × State) :=
  match s.inputs with
  | [] => none
  | i :: rest => some (i, { s with inputs := rest })

/-- The instruction of a presented word. -/
def fetched (bytes : List Byte) : Decoded := decode bytes

end Sys2Proof.Machine
end

