-- ==== Sys2Proof/Machine/Barrier.lean ====
section
/-! DEFINITION. The Instruction Synchronization Barrier (spec/47_brb_instructions.md rule R156). -/

namespace Sys2Proof.Machine

open Sys2Proof

/-- `ISB`: a Context synchronization event whatever its option is (rule R156, spec/30_encoding.md rule
R61). -/
def execIsb (_crm : BitVec 4) (s : State) : Host.Outcome State Fault Refusal := .next (contextSync s)

end Sys2Proof.Machine
end

