-- ==== Sys2Proof/Machine/Brb.lean ====
section
/-! DEFINITION. The two `BRB` instructions (spec/47_brb_instructions.md rules R154, R155). -/

namespace Sys2Proof.Machine

open Sys2Proof

/-- The effect of `BRB IALL` where it is allowed: every record invalid, the next count unknown. -/
def invalidateAll (s : State) : State :=
  { s with records := invalidated s.params s.free.record 0 s.records, ccUnknown := true }

/-- The effect of `BRB INJ` where it is allowed: the injection source is pushed, with its own `LASTFAILED`;
nothing else changes. -/
def injectRecord (s : State) : State := push s.injection s

/-- `OnBrbIall(ctx)` (rule R154). -/
def brbIall (ctx : Context) (s : State) : State := guardedBrb .brbIall ctx invalidateAll s

/-- `OnBrbInj(ctx)` (rule R155). -/
def brbInj (ctx : Context) (s : State) : State := guardedBrb .brbInj ctx injectRecord s

/-- `BRB IALL`, executed in the context the PE presents beside the word (rule R154). -/
def execBrbIall (s : State) : Host.Outcome State Fault Refusal := .next (brbIall s.port.ctx s)

/-- `BRB INJ`, executed in the context the PE presents beside the word (rule R155). -/
def execBrbInj (s : State) : Host.Outcome State Fault Refusal := .next (brbInj s.port.ctx s)

end Sys2Proof.Machine
end

