-- ==== Sys2Proof/Machine/Return.lean ====
section
/-! DEFINITION. The exception return instruction (spec/45_exception_return_records.md rule R139). -/

namespace Sys2Proof.Machine

open Sys2Proof

/-- `ERET`: the `ExceptionReturn` event whose arguments the PE presents beside the word; "the model refuses an
`ExceptionReturn` event with `from.el == 0`" (rule R133). -/
def execEret (s : State) : Host.Outcome State Fault Refusal :=
  match s.port.ctx.el with
  | .el0 => .refused .exceptionReturnAtEL0
  | .el1 => .next (returnFromException (portReturn s) s)
  | .el2 => .next (returnFromException (portReturn s) s)
  | .el3 => .next (returnFromException (portReturn s) s)

end Sys2Proof.Machine
end

