-- ==== Sys2Proof/Machine/Dispatch.lean ====
section
/-! DEFINITION. The dispatch of an instruction to its meaning, one arm per row of spec/opcode_table.json. -/

namespace Sys2Proof.Machine

open Sys2Proof

def exec (i : Instr) (s : State) : Host.Outcome State Fault Refusal :=
  match i with
  | .brbIall => Sys2Proof.Machine.execBrbIall s
  | .brbInj => Sys2Proof.Machine.execBrbInj s
  | .isb crm => Sys2Proof.Machine.execIsb crm s
  | .eret => Sys2Proof.Machine.execEret s

end Sys2Proof.Machine
end

