-- ==== Sys2Proof/Machine/Registers.lean ====
section
/-! DEFINITION. Software's accesses to the System registers, field by field (spec/47_brb_instructions.md
rules R157, R158). -/

namespace Sys2Proof.Machine

open Sys2Proof

/-- The register a field write goes to. -/
def writeReg : RegWrite → Reg
  | .e0bre _ | .e1bre _ | .cc1 _ | .mpred1 _ | .exception1 _ | .ertn1 _ | .rest1 _ => .brbcrEl1
  | .e0hbre _ | .e2bre _ | .cc2 _ | .mpred2 _ | .exception2 _ | .ertn2 _ | .rest2 _ => .brbcrEl2
  | .paused _ | .lastFailed _ => .brbfcrEl1
  | .sbrbe _ | .e3brec _ | .e3brew _ => .mdcrEl3
  | .tge _ => .hcrEl2
  | .injValid _ | .injType _ | .injEl _ | .injMpred _ | .injCcu _ | .injCc _ | .injLastFailed _
  | .injSrc _ | .injTgt _ => .injection
  | .readOnly r => r

/-- The register exists on this PE (spec/10_state.md rules R22, R26). -/
def regPresent (p : Params) : Reg → Bool
  | .brbcrEl2 | .hcrEl2 => p.haveEL2
  | .mdcrEl3 => p.haveEL3
  | _ => true

/-- The effect of a field write on the state (rule R157): control fields change in `written` alone,
`LASTFAILED` at once, the injection source is stored. -/
def writeField (w : RegWrite) (s : State) : State :=
  match w with
  | .e0bre v => { s with written.brbcrEl1.e0bre := v }
  | .e1bre v => { s with written.brbcrEl1.e1bre := v }
  | .cc1 v => { s with written.brbcrEl1.cc := v }
  | .mpred1 v => { s with written.brbcrEl1.mpred := v }
  | .exception1 v => { s with written.brbcrEl1.exception := v }
  | .ertn1 v => { s with written.brbcrEl1.ertn := v }
  | .e0hbre v => { s with written.brbcrEl2.e0hbre := v }
  | .e2bre v => { s with written.brbcrEl2.e2bre := v }
  | .cc2 v => { s with written.brbcrEl2.cc := v }
  | .mpred2 v => { s with written.brbcrEl2.mpred := v }
  | .exception2 v => { s with written.brbcrEl2.exception := v }
  | .ertn2 v => { s with written.brbcrEl2.ertn := v }
  | .paused v => { s with written.paused := v }
  | .sbrbe v => { s with written.mdcrEl3.sbrbe := v }
  | .e3brec v => { s with written.mdcrEl3.e3brec := v }
  | .e3brew v => { s with written.mdcrEl3.e3brew := v }
  | .tge v => { s with written.tge := v }
  | .lastFailed v => { s with lastFailed := v }
  | .rest1 v => { s with rest1 := v }
  | .rest2 v => { s with rest2 := v }
  | .injValid v => { s with injection.inf.valid := v }
  | .injType v => { s with injection.inf.type := v }
  | .injEl v => { s with injection.inf.el := v }
  | .injMpred v => { s with injection.inf.mpred := v }
  | .injCcu v => { s with injection.inf.ccu := v }
  | .injCc v => { s with injection.inf.cc := fitCC s.params v }
  | .injLastFailed v => { s with injection.inf.lastFailed := v }
  | .injSrc v => { s with injection.src := v }
  | .injTgt v => { s with injection.tgt := v }
  | .readOnly _ => s

/-- The write has an effect: the register exists and software may write it (rule R157). -/
def writeRefusal (p : Params) (w : RegWrite) : Option Refusal :=
  match w with
  | .readOnly r => some (.readOnlyRegister r)
  | w => if regPresent p (writeReg w) then none else some (.absentRegister (writeReg w))

/-- `SysRegWrite` (rule R157): first `BRBAccessCheck`, then the write. The event carries no context while the
check takes one: the model asks it of the PE's current context. DESIGN CHOICE, notes/assumptions/24.md. -/
def sysRegWrite (w : RegWrite) (s : State) : Host.Outcome State Fault Refusal :=
  match brbAccessCheck s.params s.ctx (.write (writeReg w)) with
  | .undefined => .next (report .undefinedInstruction s)
  | .trap el => .next (report (.systemInstructionTrap el) s)
  | .allowed =>
    match writeRefusal s.params w with
    | some r => .refused r
    | none => .next (writeField w s)

/-- `BRBINF<n>_EL1` as a read returns it: a field that `VALID` does not make meaningful comes from `drawn`
(spec/10_state.md rule R20). -/
def readInf (r drawn : Record) : BrbInf :=
  if r.inf.valid == 0b00#2 then { drawn.inf with valid := 0b00 }
  else if r.inf.valid == 0b10#2 then { r.inf with el := drawn.inf.el }
  else r.inf

/-- `BRBSRC<n>_EL1.ADDRESS` as a read returns it: meaningful when `VALID[1]` is 1. -/
def readSrc (r drawn : Record) : Addr := if r.inf.valid.getLsbD 1 then r.src else drawn.src

/-- `BRBTGT<n>_EL1.ADDRESS` as a read returns it: meaningful when `VALID[0]` is 1. -/
def readTgt (r drawn : Record) : Addr := if r.inf.valid.getLsbD 0 then r.tgt else drawn.tgt

/-- What a read of a register returns, or nothing where there is no such record or the spec gives the
register no read (rule R158). Control fields return `written`. -/
def readValue (r : Reg) (s : State) : Option RegValue :=
  let fresh := readDraw s
  match r with
  | .brbinf n => (s.records[n]?).map fun x => .inf (readInf x fresh)
  | .brbsrc n => (s.records[n]?).map fun x => .address (readSrc x fresh)
  | .brbtgt n => (s.records[n]?).map fun x => .address (readTgt x fresh)
  | .brbcrEl1 => some (.brbcrEl1 s.written.brbcrEl1 s.rest1)
  | .brbcrEl2 => some (.brbcrEl2 s.written.brbcrEl2 s.rest2)
  | .brbfcrEl1 => some (.brbfcrEl1 s.written.paused s.lastFailed)
  | .brbidr0El1 => some (.brbidr0El1 (idr0CC s.params))
  | .mdcrEl3 => some (.mdcrEl3 s.written.mdcrEl3)
  | .hcrEl2 => some (.hcrEl2 s.written.tge)
  | .injection => none

/-- Why a read returns nothing. -/
def readRefusal (r : Reg) : Refusal :=
  match r with
  | .injection => .unreadableRegister .injection
  | r => .recordOutOfRange r

/-- `SysRegRead` (rule R158): first `BRBAccessCheck`, then the value; no other effect. The event carries no context
while the check takes one: the model asks it of the PE's current context. DESIGN CHOICE,
notes/assumptions/24.md. -/
def sysRegRead (r : Reg) (s : State) : Host.Outcome State Fault Refusal :=
  match brbAccessCheck s.params s.ctx (.read r) with
  | .undefined => .next (report .undefinedInstruction s)
  | .trap el => .next (report (.systemInstructionTrap el) s)
  | .allowed =>
    if regPresent s.params r then
      match readValue r s with
      | some v => .next { report (.readValue r v) s with free := spendRead s }
      | none => .refused (readRefusal r)
    else .refused (.absentRegister r)

end Sys2Proof.Machine
end

