-- ==== Sys2Proof/Machine/Events.lean ====
section
/-! DEFINITION. What each event does (spec/40_branch_records.md to spec/47_brb_instructions.md), and the
dispatch over the events. -/

namespace Sys2Proof.Machine

open Sys2Proof

/-- `OnTakenBranch` (spec/40_branch_records.md rule R73). -/
def takenBranch (b : BranchEvent) (s : State) : State :=
  if prohibited s.params s.synced b.ctx then s
  else if isFiltered (.takenBranch b) s then s
  else generateRecord (.full b.src b.tgt b.ctx.el) b.type (branchMPred s.params s.synced b.mispredicted) s

/-- `OnDebugEntry` (spec/44_exception_records.md rule R129): no enable applies. -/
def debugEntry (fromCtx : Context) (src : Addr) (type : BranchType) (s : State) : State :=
  let sp := prohibited s.params s.synced fromCtx
  let s1 := moveTo { s.ctx with debug := true } s
  if sp then s1
  else if isFiltered (.debugEntry fromCtx src type) s1 then s1
  else generateRecord (.halfSource src) type debugMPred s1

/-- `OnDebugExit` (spec/45_exception_return_records.md rule R140): no enable applies. Delivered while the remembered
region is no Prohibited one, so that the PE is not in Debug state, it is accepted, and `Rebook` sets no unknown flag:
its record may have `CCU` 0 although the rule says 1. DESIGN CHOICE, notes/assumptions/35.md. -/
def debugExit (toCtx : Context) (tgt : Addr) (type : BranchType) (s : State) : State :=
  let tp := prohibited s.params s.synced toCtx
  let s1 := moveTo toCtx s
  if tp then s1
  else if isFiltered (.debugExit toCtx tgt type) s1 then s1
  else generateRecord (.halfTarget tgt toCtx.el) type debugMPred s1

/-- `OnTxnStart`, of an outermost transaction (spec/46_tme_and_speculation.md rule R153). Inside one it starts nothing.
DESIGN CHOICE, notes/assumptions/22.md. -/
def txnStart (s : State) : State :=
  match s.txn with
  | .none => { s with txn := if s.inProhibited then .allP else .allNP }
  | .allNP => s
  | .allP => s
  | .mixed => s

/-- `OnTxnEnd`: the transaction commits, `LASTFAILED` unchanged (same rule). The first commit ends the transaction,
the commit of one started inside it too. DESIGN CHOICE, notes/assumptions/22.md. -/
def txnEnd (s : State) : State := { s with txn := .none }

/-- `OnTick` (spec/41_cycle_counting.md rule R95). -/
def tick (threadActive : Bool) (s : State) : State := if threadActive then { s with cyc := s.cyc + 1 } else s

/-- What the unit does with an event. -/
def handle (e : Event) (s : State) : Host.Outcome State Fault Refusal :=
  match e with
  | .takenBranch b => .next (takenBranch b s)
  | .exception e => .next (takeException e s)
  | .exceptionReturn r => .next (returnFromException r s)
  | .debugEntry c src type => .next (debugEntry c src type s)
  | .debugExit c tgt type => .next (debugExit c tgt type s)
  | .txnStart => .next (txnStart s)
  | .txnEnd => .next (txnEnd s)
  | .txnFailOrCancel => .next (txnFailOrCancel s)
  | .brbIall c => .next (brbIall c s)
  | .brbInj c => .next (brbInj c s)
  | .sysRegWrite w => sysRegWrite w s
  | .sysRegRead r => sysRegRead r s
  | .contextSync => .next (contextSync s)
  | .freeze => .next (freeze s)
  | .tick active => .next (tick active s)
  | .propagate f => .next (propagate f s)

end Sys2Proof.Machine
end

