-- ==== Sys2Proof/Machine/Step.lean ====
section
/-! DEFINITION. One step of the machine: the next item of the PE's delivery, checked and then handled or
executed (spec/00_scope.md rule R6). -/

namespace Sys2Proof.Machine

open Sys2Proof

/-- One step. With nothing delivered the unit does nothing, for it executes no instruction stream of its
own (spec/70_reset_and_hazards.md section 3; notes/assumptions/7.md). -/
def step (s : State) : Host.Outcome State Fault Refusal :=
  match nextInput s with
  | none => .next s
  | some (i, s') =>
    match i.illegal s.params with
    | some why => .refused (.illegalInput why)
    | none =>
      match i with
      | .event e => handle e s'
      | .instruction bytes port =>
        match fetched bytes with
        | .reject why => .refused (.undecodable why)
        | .ok i _ => exec i { s' with port := port }

/-- `s` with an instruction word next in the PE's delivery, the PE presenting nothing of its own beside
it. -/
def State.withFetchWord (s : State) (nbits w : Nat) : State :=
  { s with inputs := .instruction (bytesOfWord (BitVec.ofNat 32 (w % 2 ^ nbits))) (idlePort s.ctx) :: s.inputs }

end Sys2Proof.Machine
end

