-- ==== Sys2Proof/Safety.lean ====
section
/-! DEFINITION. The terms that claims use: what a claim can observe (spec/70_reset_and_hazards.md rule
R186), when generation is stopped (rule R184), and the invariant of the machine. -/

namespace Sys2Proof.Machine

open Sys2Proof

/-- What a claim can observe of one record: the fields that are not `draw`. -/
inductive RecordView where
  | invalid
  | valid (valid : BitVec 2) (type : BranchType) (mpred ccu : Bool) (cc : Nat) (lastFailed : Bool)
      (src : Option Addr) (tgt : Option (Addr × BitVec 2))
deriving DecidableEq, Repr

/-- The observation of one record (rule R186). -/
def viewRecord (r : Record) : RecordView :=
  if r.inf.valid == 0b00#2 then .invalid
  else .valid r.inf.valid r.inf.type r.inf.mpred r.inf.ccu r.inf.cc r.inf.lastFailed
    (if r.inf.valid.getLsbD 1 then some r.src else none)
    (if r.inf.valid.getLsbD 0 then some (r.tgt, r.inf.el) else none)

/-- The observation of a state: the records, `BRBFCR_EL1.LASTFAILED` and `BRBFCR_EL1.PAUSED` (rule R186). -/
def observe (s : State) : List RecordView × Bool × Bool :=
  (s.records.map viewRecord, s.lastFailed, s.written.paused)

/-- Generation is stopped: the PE runs in a Prohibited region, or the unit sees `PAUSED` (rule R184). -/
def generationStopped (s : State) : Bool := s.inProhibited || s.synced.paused

/-- No write waits for a Context synchronization event (spec/20_memory.md rule R45). -/
def Quiescent (s : State) : Prop := s.synced = s.written

/-- From `s` to `t` one record is generated: `r` is pushed, it takes the copy of `BRBFCR_EL1.LASTFAILED` and
clears it, and the count starts anew (spec/40_branch_records.md rule R74). -/
structure Generated (s t : State) (r : Record) : Prop where
  records : t.records = (r :: s.records).take s.params.numrec
  copied : r.inf.lastFailed = s.lastFailed
  cleared : t.lastFailed = false
  cyc : t.cyc = 0
  counted : t.ccUnknown = false

/-- The halves of the record `r` that its `VALID` makes meaningful hold the address `src`, and the address `tgt`
without its tag with the level `el` (spec/10_state.md rule R20, spec/20_memory.md rule R42). -/
structure ValidHalves (p : Params) (src tgt : Addr) (el : EL) (r : Record) : Prop where
  src : r.inf.valid.getLsbD 1 = true → r.src = src
  tgt : r.inf.valid.getLsbD 0 = true → r.tgt = stripTag p tgt ∧ r.inf.el = el.bits

/-- Whether the next record is the first after one of the causes of an unknown count, once the unit sees the
controls `v` and the PE runs in the context `c`: it was before, counting has been enabled, `PAUSED` has gone from
1 to 0, or the PE has left a Prohibited region (spec/41_cycle_counting.md rule R96). -/
def firstAfterCause (s : State) (v : Controls) (c : Context) : Bool :=
  s.ccUnknown || (!ccEnabled s.params s.synced && ccEnabled s.params v) || (s.synced.paused && !v.paused) ||
    (s.inProhibited && !prohibited s.params v c)

/-- From `s` to `t` no record is generated and nothing changes on account of one: the buffer, the count and
`BRBFCR_EL1.LASTFAILED` stay, and the unknown flag has the value that the bookkeeping of
spec/41_cycle_counting.md rule R96 alone gives it (spec/40_branch_records.md rule R75). No free value of a record is
drawn. -/
structure NothingGenerated (s t : State) : Prop where
  records : t.records = s.records
  lastFailed : t.lastFailed = s.lastFailed
  cyc : t.cyc = s.cyc
  flag : t.ccUnknown = firstAfterCause s t.synced t.ctx
  drawn : t.free.record = s.free.record

/-- The record `r` has the count of a record generated in `s` while the unit sees the controls `v`, where
`first` says whether it is the first after a cause of an unknown count: unknown when counting is disabled or
`first` holds, else all ones beyond `CCMAX`, else the encoded count (spec/41_cycle_counting.md rules R91 to R94,
R97). -/
structure Counted (s : State) (v : Controls) (first : Bool) (r : Record) : Prop where
  unknown : v.brbcrEl1.cc = false ∨ (s.params.haveEL2 = true ∧ v.brbcrEl2.cc = false) ∨ first = true →
    r.inf.ccu = true ∧ r.inf.cc = 0
  saturated : v.brbcrEl1.cc = true → (s.params.haveEL2 = false ∨ v.brbcrEl2.cc = true) → first = false →
    s.params.ccMax < s.cyc → r.inf.ccu = false ∧ r.inf.cc = 2 ^ s.params.ccw - 1
  encoded : v.brbcrEl1.cc = true → (s.params.haveEL2 = false ∨ v.brbcrEl2.cc = true) → first = false →
    s.cyc ≤ s.params.ccMax → r.inf.ccu = false ∧ r.inf.cc = encodeCC s.params s.cyc

/-- From `s` to `t` the PE has moved to the context `c` and the unit sees the controls `v`: the region and the
transaction's class follow (spec/10_state.md rule R33, spec/46_tme_and_speculation.md rule R153), and no field
outside the buffer, its bookkeeping and the model's counters has changed. -/
structure Moved (s t : State) (v : Controls) (c : Context) : Prop where
  ctx : t.ctx = c
  synced : t.synced = v
  written : t.written = s.written
  region : t.inProhibited = prohibited s.params v c
  txn : t.txn = if s.inProhibited = prohibited s.params v c then s.txn else mixTxn s.txn
  params : t.params = s.params
  rest1 : t.rest1 = s.rest1
  rest2 : t.rest2 = s.rest2
  injection : t.injection = s.injection
  port : t.port = s.port
  inputs : t.inputs = s.inputs
  reports : t.reports = s.reports

/-- The address contains no address tag (spec/20_memory.md rule R42): open, or as
spec/93_implementation_defined.md GK12 recalls it, the top byte a copy of bit 55. -/
def NoTag (p : Params) (a : Addr) : Prop :=
  match p.stripTag with
  | .unspecified => Config.hasTag a = false
  | .recalled => ∀ i, 56 ≤ i → i < 64 → a.getLsbD i = a.getLsbD 55

/-- A read of the register `r` returns `v` and changes nothing of the unit, only the model's counters of free
values (spec/47_brb_instructions.md rule R158). -/
def Reads (s : State) (r : Reg) (v : RegValue) : Prop :=
  ∃ f, handle (.sysRegRead r) s = .next { s with reports := .readValue r v :: s.reports, free := f }

/-- The value of one control field in a view; a field of one bit is 0 or 1. -/
def controlField (v : Controls) : ControlField → Nat
  | .e0bre => v.brbcrEl1.e0bre.toNat
  | .e1bre => v.brbcrEl1.e1bre.toNat
  | .cc1 => v.brbcrEl1.cc.toNat
  | .mpred1 => v.brbcrEl1.mpred.toNat
  | .exception1 => v.brbcrEl1.exception.toNat
  | .ertn1 => v.brbcrEl1.ertn.toNat
  | .e0hbre => v.brbcrEl2.e0hbre.toNat
  | .e2bre => v.brbcrEl2.e2bre.toNat
  | .cc2 => v.brbcrEl2.cc.toNat
  | .mpred2 => v.brbcrEl2.mpred.toNat
  | .exception2 => v.brbcrEl2.exception.toNat
  | .ertn2 => v.brbcrEl2.ertn.toNat
  | .paused => v.paused.toNat
  | .sbrbe => v.mdcrEl3.sbrbe.toNat
  | .e3brec => v.mdcrEl3.e3brec.toNat
  | .e3brew => v.mdcrEl3.e3brew.toNat
  | .tge => v.tge.toNat

/-- The `BRB` instruction `i` comes next, as its event or as bytes that decode to it. -/
def DeliversBrb (s : State) (i : Instr) : Prop :=
  (∃ c rest, (i = .brbIall ∧ s.inputs = .event (.brbIall c) :: rest) ∨
    (i = .brbInj ∧ s.inputs = .event (.brbInj c) :: rest)) ∨
  ∃ bytes port rest tail, s.inputs = .instruction bytes port :: rest ∧ decode bytes = .ok i tail

/-! ### What is never delivered -/

/-- The PE contexts an event carries (spec/00_scope.md rule R6). -/
def eventContexts : Event → List Context
  | .takenBranch b => [b.ctx]
  | .exception e => [e.fromCtx, e.toCtx]
  | .exceptionReturn r => [r.fromCtx, r.toCtx]
  | .debugEntry c _ _ => [c]
  | .debugExit c _ _ => [c]
  | .brbIall c => [c]
  | .brbInj c => [c]
  | .txnStart | .txnEnd | .txnFailOrCancel | .sysRegWrite _ | .sysRegRead _ | .contextSync | .freeze | .tick _
  | .propagate _ => []

/-- The values of `BranchType` an event carries (same rule). -/
def eventTypes : Event → List BranchType
  | .takenBranch b => [b.type]
  | .exception e => [e.type]
  | .exceptionReturn r => [r.type]
  | .debugEntry _ _ t => [t]
  | .debugExit _ _ t => [t]
  | .sysRegWrite (.injType t) => [t]
  | .sysRegWrite _ => []
  | .brbIall _ | .brbInj _ | .txnStart | .txnEnd | .txnFailOrCancel | .sysRegRead _ | .contextSync | .freeze
  | .tick _ | .propagate _ => []

/-- A context of an Exception level or an Execution state that the PE does not have (decision D7,
spec/00_scope.md rule R3). -/
def AbsentContext (p : Params) (c : Context) : Prop :=
  ((c.el = .el2 ∨ c.el2Enabled = true) ∧ p.haveEL2 = false) ∨ (c.el = .el3 ∧ p.haveEL3 = false) ∨
    (c.aarch32 = true ∧ p.haveAArch32 = false)

/-! ### The invariant -/

/-- Every field of a record within its width: `CC` below `2 ^ CCW`, `TYPE` a value of `BranchType`. -/
abbrev Record.Fits (p : Params) (r : Record) : Prop := r.inf.cc < 2 ^ p.ccw ∧ r.inf.type < p.branchTypes

/-- The invariant of the machine: the parameters are within their bounds, the buffer has `NUMREC` records,
every record fits its fields, the PE's contexts and the presented type exist on this PE, the remembered region is
the region of the current context (spec/10_state.md rule R33), and the transaction's class agrees with it
(spec/46_tme_and_speculation.md rule R153). -/
structure State.Inv (s : State) : Prop where
  params_wf : s.params.wf = true
  numrec : s.records.length = s.params.numrec
  records_fit : ∀ r ∈ s.records, Record.Fits s.params r
  injection_fit : Record.Fits s.params s.injection
  ctx_legal : s.ctx.illegal s.params = none
  port_legal : s.port.illegal s.params = none
  region : s.inProhibited = prohibited s.params s.synced s.ctx
  txn_allNP : s.txn = .allNP → s.inProhibited = false
  txn_allP : s.txn = .allP → s.inProhibited = true
  txn_none : s.params.haveTME = false → s.txn = .none

end Sys2Proof.Machine
end

