-- ==== Sys2Proof/Certificates/Slice0/Obligations.lean ====
section
/-! DEFINITION. The statements for the provers. Each docstring names the rule of spec/ it formalises. -/

open Sys2Proof Sys2Proof.Machine

/-! ### Encoding (spec/30_encoding.md) -/

/-- Decoding an instruction's bytes gives the instruction and what follows them, for every instruction with
every operand (rules R57 to R61; the patterns are PRESUMED, notes/assumptions/5.md). -/
def Obligations.DecodeOfEncodeIsTheInstruction : Prop :=
  ∀ (i : Instr) (rest : List Byte), decode (encode i ++ rest) = .ok i rest

/-- Bytes that decode to an instruction are that instruction's encoding: no other word spells it
(rules R57 to R60; notes/assumptions/5.md). -/
def Obligations.DecodedBytesAreTheEncoding : Prop :=
  ∀ (bytes : List Byte) (i : Instr) (rest : List Byte), decode bytes = .ok i rest → bytes = encode i ++ rest

/-- The words that rules R57 to R60 write out decode to their instructions; `ISB` also with option 0
(notes/assumptions/5.md). -/
def Obligations.WrittenOutWordsDecode : Prop :=
  decodeTableWord 32 0xD509729F = some .brbIall ∧ decodeTableWord 32 0xD50972BF = some .brbInj ∧
    decodeTableWord 32 0xD5033FDF = some (.isb 0b1111) ∧ decodeTableWord 32 0xD50330DF = some (.isb 0) ∧
    decodeTableWord 32 0xD69F03E0 = some .eret

/-- A word of the `BRB` group that spells neither instruction is refused by the name rule R62 gives it, as decision D14
chooses (notes/assumptions/5.md). -/
def Obligations.UnknownBrbWordsAreRefusedByName : Prop :=
  ∀ (op2 : BitVec 3) (rt : BitVec 5),
    (op2 ≠ 4#3 → op2 ≠ 5#3 → decodeWord (sysWord 1 7 2 op2 rt) = .inr .unallocatedBrbOperation) ∧
      (op2 = 4#3 ∨ op2 = 5#3 → rt ≠ 31#5 → decodeWord (sysWord 1 7 2 op2 rt) = .inr .brbWithRtNot31)

/-! ### The step, reset and the invariant -/

/-- A step runs the instruction that the presented bytes decode to. That the words stand in State, with a port of
the PE's inputs presented beside each, is the model's choice, notes/assumptions/8.md and 26.md. -/
def Obligations.StepExecutesThePresentedInstruction : Prop :=
  ∀ (s : State) (bytes : List Byte) (port : PePort) (rest : List Input) (i : Instr) (tail : List Byte),
    s.inputs = .instruction bytes port :: rest → port.illegal s.params = none →
      decode bytes = .ok i tail → step s = exec i { s with inputs := rest, port := port }

/-- A step handles the event that is delivered next (spec/00_scope.md rule R6; that the deliveries stand in
State is the model's choice, notes/assumptions/8.md). With nothing delivered it leaves the state as it is, which is
the model's choice too, notes/assumptions/7.md. -/
def Obligations.StepHandlesTheDeliveredEvent : Prop :=
  (∀ (s : State) (e : Event) (rest : List Input),
    s.inputs = .event e :: rest → e.illegal s.params = none → step s = handle e { s with inputs := rest }) ∧
  ∀ s : State, s.inputs = [] → step s = .next s

/-- What the spec says is never delivered is refused by name: an exception to EL0 (rule R128), an exception
return from EL0 (rule R133), a transaction event without the extension (spec/46, opening), a context or a record
type that the PE does not have (rule R3, decision D7), bytes that spell no instruction (rule R62). That the model
stops there is its choice, notes/assumptions/8.md and 4.md. -/
def Obligations.StepRefusesWhatIsNeverDelivered : Prop :=
  ∀ (s : State) (rest : List Input),
    (∀ e : ExceptionEvent, e.toCtx.el = .el0 → s.inputs = .event (.exception e) :: rest →
      step s = .refused (.illegalInput .exceptionToEL0)) ∧
    (∀ r : ReturnEvent, r.fromCtx.el = .el0 → s.inputs = .event (.exceptionReturn r) :: rest →
      step s = .refused (.illegalInput .exceptionReturnAtEL0)) ∧
    (s.params.haveTME = false →
      (s.inputs = .event .txnStart :: rest ∨ s.inputs = .event .txnEnd :: rest ∨
        s.inputs = .event .txnFailOrCancel :: rest) →
      step s = .refused (.illegalInput .transactionWithoutTME)) ∧
    (∀ e, s.inputs = .event e :: rest →
      ((∃ c ∈ eventContexts e, AbsentContext s.params c) ∨ (∃ n ∈ eventTypes e, s.params.branchTypes ≤ n)) →
      ∃ why, step s = .refused (.illegalInput why)) ∧
    (∀ bytes port, s.inputs = .instruction bytes port :: rest →
      (AbsentContext s.params port.ctx ∨ AbsentContext s.params port.toCtx ∨ s.params.branchTypes ≤ port.type) →
      ∃ why, step s = .refused (.illegalInput why)) ∧
    (∀ c, s.inputs = .event (.brbIall c) :: rest ∨ s.inputs = .event (.brbInj c) :: rest →
      (s.params.haveEL2 = false → c.el = .el2 ∨ c.el2Enabled = true →
        step s = .refused (.illegalInput .contextNeedsEL2)) ∧
      (s.params.haveEL3 = false → c.el = .el3 → c.el2Enabled = false →
        step s = .refused (.illegalInput .contextNeedsEL3)) ∧
      (s.params.haveAArch32 = false → c.aarch32 = true → c.el = .el0 ∨ c.el = .el1 → c.el2Enabled = false →
        step s = .refused (.illegalInput .contextNeedsAArch32))) ∧
    (∀ n, s.params.branchTypes ≤ n → s.inputs = .event (.sysRegWrite (.injType n)) :: rest →
      step s = .refused (.illegalInput .unknownBranchType)) ∧
    (∀ bytes port, s.inputs = .instruction bytes port :: rest → port.illegal s.params = none →
      (∀ i tail, bytes ≠ encode i ++ tail) →
      ∃ why, step s = .refused (.undecodable why) ∧ (bytes.length < 4 → why = .truncated) ∧
        (∀ w tail, bytes = bytesOfWord w ++ tail → inBrbGroup w = false → why = .notInTable))

/-- Every step that answers a next state keeps the invariant, from every state that has it. -/
def Obligations.StepKeepsTheInvariant : Prop :=
  ∀ s t : State, s.Inv → step s = .next t → t.Inv

/-- The machine after reset has the invariant, on this PE and on every PE and launch context that rule R3
allows. The values after reset are the model's choice, notes/assumptions/2.md. -/
def Obligations.ResetMeetsTheInvariant : Prop :=
  State.reset.Inv ∧ ∀ (p : Params) (c : Context), p.wf = true → c.illegal p = none → (State.resetOn p c).Inv

/-- What spec/10_state.md rule R36, decision D16, fixes of the state after reset: the next count is unknown, no
transaction is in progress, both views of the controls agree, and the remembered region is that of the launch
context. -/
def Obligations.ResetLeavesWhatTheSpecFixes : Prop :=
  ∀ (p : Params) (c : Context),
    (State.resetOn p c).ccUnknown = true ∧ (State.resetOn p c).txn = .none ∧
      (State.resetOn p c).synced = (State.resetOn p c).written ∧ (State.resetOn p c).ctx = c ∧
      (State.resetOn p c).inProhibited = prohibited p (State.resetOn p c).synced c

/-- "Each is fixed for one PE and never changes while it runs" (spec/00_scope.md rule R3). -/
def Obligations.NoStepChangesTheParameters : Prop :=
  ∀ s t : State, step s = .next t → t.params = s.params

/-- Only a taken branch, an exception, an exception return, Debug state entry or exit, `BRB IALL`, `BRB INJ`
and `ERET` change the buffer (spec/40_branch_records.md rules R65, R66, whose "nothing else" is about generating a
record and which the spec marks as derived; spec/47_brb_instructions.md rules R154, R155). That an open freeze event
leaves the buffer as it is, is the model's choice, notes/assumptions/11.md; that a read changes no record is decision
D18, notes/assumptions/24.md. -/
def Obligations.OnlyTheseInputsChangeTheBuffer : Prop :=
  ∀ s t : State, step s = .next t → t.records ≠ s.records →
    (∃ rest, (∃ b, s.inputs = .event (.takenBranch b) :: rest) ∨ (∃ e, s.inputs = .event (.exception e) :: rest) ∨
      (∃ r, s.inputs = .event (.exceptionReturn r) :: rest) ∨
      (∃ c a n, s.inputs = .event (.debugEntry c a n) :: rest) ∨
      (∃ c a n, s.inputs = .event (.debugExit c a n) :: rest) ∨
      (∃ c, s.inputs = .event (.brbIall c) :: rest) ∨ (∃ c, s.inputs = .event (.brbInj c) :: rest)) ∨
    (∃ bytes port rest i tail, s.inputs = .instruction bytes port :: rest ∧ decode bytes = .ok i tail ∧
      (i = .brbIall ∨ i = .brbInj ∨ i = .eret))

/-- One step moves the buffer by at most one record, or invalidates all of it (spec/10_state.md rule R34,
spec/47_brb_instructions.md rule R154; decisions D3 and D12, notes/assumptions/12.md and 13.md). That a freeze event,
on its own or in a race, leaves the buffer as it is, is the model's choice, notes/assumptions/11.md; that a read changes
no record is decision D18, notes/assumptions/24.md. -/
def Obligations.AStepPushesOneRecordOrInvalidatesAll : Prop :=
  ∀ s t : State, step s = .next t →
    t.records = s.records ∨ (∃ r, t.records = (r :: s.records).take s.params.numrec) ∨
      (t.records.length = s.records.length ∧ ∀ r ∈ t.records, r.inf.valid = 0b00#2)

/-- With no write pending, none becomes pending but by a register write: what the unit sees is then what
software wrote (spec/20_memory.md rule R45, decision D21, notes/assumptions/21.md; the freeze event as rule R160
recommends it, notes/assumptions/11.md). -/
def Obligations.QuiescenceIsKept : Prop :=
  ∀ s t : State, Quiescent s → s.params.freeze = .recalled →
    (∀ w rest, s.inputs ≠ .event (.sysRegWrite w) :: rest) → step s = .next t → Quiescent t

/-- A transaction whose region changes is `mixed`, whatever the step that changes it
(spec/46_tme_and_speculation.md rule R153, which the spec marks as derived; notes/assumptions/22.md). -/
def Obligations.ARegionChangeMixesTheTransaction : Prop :=
  ∀ s t : State, step s = .next t → s.txn ≠ .none → t.txn ≠ .none → s.inProhibited ≠ t.inProhibited →
    t.txn = .mixed

/-! ### `BRB IALL` and `BRB INJ` (spec/47_brb_instructions.md) -/

/-- `BRB IALL`, outside a transaction and permitted, completes, as the event and as the instruction word executed in
the same context: every record is invalid, the next count is unknown, nothing else changes (rule R154, decision
D12, notes/assumptions/13.md). -/
def Obligations.BrbIallInvalidatesEveryRecord : Prop :=
  ∀ (c : Context) (s : State), s.txn = .none → brbAccessCheck s.params c .brbIall = .allowed →
    ∃ t rs, handle (.brbIall c) s = .next t ∧ (s.port.ctx = c → exec .brbIall s = .next t) ∧
      t = { s with records := rs, ccUnknown := true } ∧ rs.length = s.records.length ∧
      ∀ r ∈ rs, r.inf.valid = 0b00#2

/-- After `BRB IALL` nothing of the buffer can be observed, and a second one changes nothing that can be
(rule R154, spec/70_reset_and_hazards.md rule R186; decisions D12 and D29, notes/assumptions/13.md). -/
def Obligations.AfterBrbIallNothingIsObservable : Prop :=
  ∀ (c : Context) (s : State), s.txn = .none → brbAccessCheck s.params c .brbIall = .allowed →
    ∃ t u, handle (.brbIall c) s = .next t ∧ handle (.brbIall c) t = .next u ∧
      (s.port.ctx = c → exec .brbIall s = .next t ∧ exec .brbIall t = .next u) ∧
      observe t = (List.replicate s.records.length .invalid, s.lastFailed, s.written.paused) ∧
      observe u = observe t ∧ u.ccUnknown = t.ccUnknown

/-- `BRB IALL` makes the count unknown. From a state where it is unknown every step either leaves it so and generates
no record, the buffer changing by `BRB IALL` or `BRB INJ` alone, or is neither of the two and generates a record with
an unknown count, which ends the cause. So the first record generated after `BRB IALL`, injected ones aside, has an
unknown cycle count (spec/41_cycle_counting.md rules R91, R92, R96, R97; decision D12, notes/assumptions/13.md). That
an injected record has the count of its source, is no generated one and ends no cause is decision D13,
notes/assumptions/14.md; that an open freeze event makes no unknown count known and leaves the buffer,
notes/assumptions/11.md; that a read changes no record, decision D18, notes/assumptions/24.md. -/
def Obligations.FirstRecordAfterBrbIallHasUnknownCount : Prop :=
  (∀ (c : Context) (s : State), s.txn = .none → brbAccessCheck s.params c .brbIall = .allowed →
    ∃ t, handle (.brbIall c) s = .next t ∧ (s.port.ctx = c → exec .brbIall s = .next t) ∧ t.ccUnknown = true) ∧
  (∀ s t : State, s.ccUnknown = true → step s = .next t →
    (t.ccUnknown = true ∧ t.free.record = s.free.record ∧
      (t.records = s.records ∨
        (DeliversBrb s .brbInj ∧ t.records = (s.injection :: s.records).take s.params.numrec) ∨
        (DeliversBrb s .brbIall ∧ t.records.length = s.records.length ∧ ∀ r ∈ t.records, r.inf.valid = 0b00#2))) ∨
    (¬ DeliversBrb s .brbInj ∧ ¬ DeliversBrb s .brbIall ∧
      ∃ r, t.records = (r :: s.records).take s.params.numrec ∧ r.inf.valid ≠ 0b00#2 ∧ r.inf.ccu = true ∧
        r.inf.cc = 0 ∧ t.free.record = s.free.record + 1 ∧ (s.params.freeze = .recalled → t.ccUnknown = false)))

/-- `BRB INJ`, outside a transaction and permitted, completes whatever the region and the filter, as the event and
as the instruction word executed in the same context: the injection source becomes record 0, every record moves up
by one, nothing else changes, `LASTFAILED` among it (rule R155, spec/10_state.md rule R34; decisions D13 and D3,
notes/assumptions/14.md and 12.md). -/
def Obligations.BrbInjPushesTheInjectionSource : Prop :=
  ∀ (c : Context) (s : State), s.txn = .none → brbAccessCheck s.params c .brbInj = .allowed →
    1 ≤ s.params.numrec →
    ∃ t rs, handle (.brbInj c) s = .next t ∧ (s.port.ctx = c → exec .brbInj s = .next t) ∧
      t = { s with records := rs } ∧ rs[0]? = some s.injection ∧
      (∀ n, n + 1 < s.params.numrec → rs[n + 1]? = s.records[n]?) ∧ rs.length ≤ s.params.numrec

/-- In Transactional state both `BRB` instructions, in every context, fail the transaction with `ERR` and have no
other effect (spec/46_tme_and_speculation.md rule R151 with rules R145 to R147). -/
def Obligations.BrbInTransactionalStateFailsTheTransaction : Prop :=
  ∀ (c : Context) (s : State), s.txn ≠ .none →
    ∃ t l k, exec .brbIall s = .next t ∧ exec .brbInj s = .next t ∧ handle (.brbIall c) s = .next t ∧
      handle (.brbInj c) s = .next t ∧
      t = { s with
        lastFailed := l, txn := .none, reports := .transactionFailureErr :: s.reports
        free := { s.free with choice := k } } ∧
      (s.txn = .allNP → l = true) ∧ (s.txn = .allP → l = s.lastFailed) ∧
      (s.txn = .mixed → l = true ∨ l = s.lastFailed)

/-- Outside a transaction both `BRB` instructions complete: where the access check, asked of the context they are
executed in, answers undefined or trap, that report to the PE is their only effect, and where it allows them they
report nothing (rules R154, R155, R161; the check is open, decision D15, notes/assumptions/10.md). -/
def Obligations.BrbFollowsTheAccessCheck : Prop :=
  ∀ (c : Context) (s : State), s.txn = .none →
    let answer := fun (op : BrbOp) (t : State) => match brbAccessCheck s.params c op with
      | .allowed => t
      | .undefined => { s with reports := .undefinedInstruction :: s.reports }
      | .trap el => { s with reports := .systemInstructionTrap el :: s.reports }
    ∃ t u, t.reports = s.reports ∧ u.reports = s.reports ∧
      handle (.brbIall c) s = .next (answer .brbIall t) ∧ handle (.brbInj c) s = .next (answer .brbInj u) ∧
      (s.port.ctx = c → exec .brbIall s = .next (answer .brbIall t) ∧ exec .brbInj s = .next (answer .brbInj u))

/-! ### `ISB` (spec/47_brb_instructions.md rule R156, spec/20_memory.md rules R45, R46) -/

/-- `ISB` completes in every state and with every option, and so does the event `ContextSync`, with the same effect:
the unit sees every write, the region bookkeeping of spec/41_cycle_counting.md rule R96 and
spec/46_tme_and_speculation.md rule R153 runs, nothing else changes. -/
def Obligations.IsbMakesEveryWriteVisible : Prop :=
  ∀ (crm : BitVec 4) (s : State),
    let t := { s with
      synced := s.written
      inProhibited := prohibited s.params s.written s.ctx
      ccUnknown := s.ccUnknown || (!ccEnabled s.params s.synced && ccEnabled s.params s.written) ||
        (s.synced.paused && !s.written.paused) || (s.inProhibited && !prohibited s.params s.written s.ctx)
      txn := if s.inProhibited == prohibited s.params s.written s.ctx then s.txn else mixTxn s.txn }
    exec (.isb crm) s = .next t ∧ handle .contextSync s = .next t

/-- An `ISB` with no pending write changes nothing. -/
def Obligations.IsbWithNoPendingWriteChangesNothing : Prop :=
  ∀ (crm : BitVec 4) (s : State), s.Inv → Quiescent s → exec (.isb crm) s = .next s

/-- `ISB` after enabling recording at the current level: the branch after it is recorded in full, its count
unknown because the PE left a Prohibited region (rule R156, example; nothing filtered but by `PAUSED`,
decision D8, notes/assumptions/9.md). -/
def Obligations.IsbOpensTheRegionForTheNextBranch : Prop :=
  ∀ (crm : BitVec 4) (s : State) (b : BranchEvent), s.params.filter = .recalled → b.ctx = s.ctx →
    s.inProhibited = true → prohibited s.params s.written s.ctx = false → s.written.paused = false →
    ∃ t u r, exec (.isb crm) s = .next t ∧ handle (.takenBranch b) t = .next u ∧ Generated t u r ∧
      r.inf.valid = 0b11#2 ∧ r.src = b.src ∧ r.inf.ccu = true ∧ r.inf.cc = 0

/-! ### `ERET` and exception returns (spec/45_exception_return_records.md) -/

/-- `ERET` completes at every level but EL0, under every parameter, as its event does: the PE is in the context it
loads, and at most one record is pushed, of the kind its regions give, with the addresses and `EL` of its valid
halves, and only when enabled (rules R132 to R134, R136, R139; the source side on old or new controls by
spec/20_memory.md rule R47). A legal return, one that sets PSTATE.IL included, loads the context it returns to
(rules R136, R137); an illegal one stays in the context it is executed in (rule R138; the whole of it by
notes/assumptions/20.md, a presented target being overridden by notes/assumptions/34.md). A branch that was not mispredicted is not reported as one (spec/42_mispredicted_branches.md
rule R105). The context it executes in is presented beside it, notes/assumptions/26.md; the source address and `EL` are
decision D11, notes/assumptions/19.md; that a racing freeze event leaves the buffer is the model's choice,
notes/assumptions/11.md. -/
def Obligations.EretCompletesAboveEL0 : Prop :=
  ∀ s : State, s.port.ctx.el ≠ .el0 →
    ∃ t, exec .eret s = .next t ∧ handle (.exceptionReturn (portReturn s)) s = .next t ∧
      t.ctx = loadedCtx (portReturn s) ∧ (s.port.kind ≠ .illegal → t.ctx = s.port.toCtx) ∧
      (s.port.kind = .illegal → t.ctx = s.port.ctx) ∧ t.params = s.params ∧ t.port = s.port ∧ t.inputs = s.inputs ∧
      t.reports = s.reports ∧
      (s.params.freeze = .recalled → t.rest1 = s.rest1 ∧ t.rest2 = s.rest2 ∧ t.injection = s.injection) ∧
      (t.records = s.records ∨
        ∃ r c sp, (sp = prohibited s.params s.synced s.port.ctx ∨ sp = prohibited s.params s.written s.port.ctx) ∧
          captureOf sp (prohibited s.params s.written t.ctx) s.port.src s.port.tgt t.ctx.el = some c ∧
          returnEnabled s.params s.written s.port.ctx.el = true ∧
          t.records = (r :: s.records).take s.params.numrec ∧ r.inf.valid = captureValid c ∧
          ValidHalves s.params s.port.src s.port.tgt t.ctx.el r ∧ r.inf.type = s.port.type ∧
          (s.port.mispredicted = false → r.inf.mpred = false))

/-- An exception return, as the event and as the `ERET` presented with the same arguments, moves the PE and
synchronizes, whether it is recorded or not, with the freeze event as the instance of decision D20
(notes/assumptions/11.md). Its record is none, Half-target, Half-source or Full by its two regions, with the fields of
rules R134, R136 and R139 and the count of spec/41_cycle_counting.md rules R91 to R97. Withheld because its level does
not enable it, because the unit sees `PAUSED` or because an open filter answers so, it leaves the buffer, the count and
`LASTFAILED` alone (spec/40_branch_records.md rule R75; decisions D22 and D8, notes/assumptions/17.md and 9.md). The
source address and `EL` are D11, `MPRED` is D10, the count on leaving a Prohibited region D9, notes/assumptions/19.md,
16.md and 15.md; that a source Prohibited on the new controls alone is no such leaving, notes/assumptions/32.md. -/
def Obligations.EretRecordsByItsRegions : Prop :=
  ∀ (r : ReturnEvent) (s : State), r.fromCtx.el ≠ .el0 → s.params.freeze = .recalled →
    let withheld : Prop := returnEnabled s.params s.written r.fromCtx.el = false ∨ s.written.paused = true ∨
      s.params.filter = .unspecified
    ∃ sp t, (sp = prohibited s.params s.synced r.fromCtx ∨ sp = prohibited s.params s.written r.fromCtx) ∧
      handle (.exceptionReturn r) s = .next t ∧ (portReturn s = r → exec .eret s = .next t) ∧
      Moved s t s.written (loadedCtx r) ∧
      (returnEnabled s.params s.written r.fromCtx.el = false ∨ s.written.paused = true → NothingGenerated s t) ∧
      (sp = true → t.inProhibited = true → NothingGenerated s t) ∧
      (sp = true → t.inProhibited = false → (withheld ∧ NothingGenerated s t) ∨
        ∃ x, Generated s t x ∧ x.inf.valid = 0b01#2 ∧ x.tgt = stripTag s.params r.tgt ∧
          x.inf.el = t.ctx.el.bits ∧ x.inf.type = r.type ∧
          x.inf.mpred = branchMPred s.params s.written r.mispredicted ∧
          Counted s s.written (firstAfterCause s s.written t.ctx) x) ∧
      (sp = false → t.inProhibited = true → (withheld ∧ NothingGenerated s t) ∨
        ∃ x, Generated s t x ∧ x.inf.valid = 0b10#2 ∧ x.src = r.src ∧ x.inf.type = r.type ∧
          x.inf.mpred = branchMPred s.params s.written r.mispredicted ∧
          Counted s s.written (firstAfterCause s s.written t.ctx) x) ∧
      (sp = false → t.inProhibited = false → (withheld ∧ NothingGenerated s t) ∨
        ∃ x, Generated s t x ∧ x.inf.valid = 0b11#2 ∧ x.src = r.src ∧ x.tgt = stripTag s.params r.tgt ∧
          x.inf.el = t.ctx.el.bits ∧ x.inf.type = r.type ∧
          x.inf.mpred = branchMPred s.params s.written r.mispredicted ∧
          Counted s s.written (firstAfterCause s s.written t.ctx) x)

/-- An exception return executed in a Prohibited region that goes to a Prohibited region is not recorded
(rule R132), delivered as the event or executed as `ERET`, under every parameter. -/
def Obligations.ReturnBetweenProhibitedRegionsIsNotRecorded : Prop :=
  ∀ (r : ReturnEvent) (s : State), r.fromCtx.el ≠ .el0 → prohibited s.params s.synced r.fromCtx = true →
    prohibited s.params s.written r.fromCtx = true → prohibited s.params s.written (loadedCtx r) = true →
    ∃ t, handle (.exceptionReturn r) s = .next t ∧ (portReturn s = r → exec .eret s = .next t) ∧
      t.records = s.records

/-- "a Branch record is generated only if" the level an exception return is executed at enables it (rule R133),
under every parameter, delivered as the event or executed as `ERET`; at EL0 the instruction is refused. -/
def Obligations.ReturnIsRecordedOnlyIfItsLevelEnablesIt : Prop :=
  ∀ (r : ReturnEvent) (s : State), (s.port.ctx.el = .el0 → exec .eret s = .refused .exceptionReturnAtEL0) ∧
    ∀ t, (handle (.exceptionReturn r) s = .next t ∨ (portReturn s = r ∧ exec .eret s = .next t)) →
      t.records ≠ s.records →
      (r.fromCtx.el = .el1 → s.written.brbcrEl1.ertn = true) ∧
      (r.fromCtx.el = .el2 → s.written.brbcrEl2.ertn = true) ∧
      (r.fromCtx.el = .el3 → s.params.haveBRBEv1p1 = true ∧ s.params.haveEL3 = true ∧
        s.written.mdcrEl3.e3brec ≠ s.written.mdcrEl3.e3brew)

/-- An exception return whose level does not enable it, delivered as the event or executed as `ERET`, generates no
record, under every parameter. With the freeze event as the instance of decision D20 (notes/assumptions/11.md)
nothing else changes on account of a record either, the unknown flag among it (rules R133, R75; decision D22,
notes/assumptions/17.md); under an open freeze event, which may race, that is not said. -/
def Obligations.DisabledEretGeneratesNothing : Prop :=
  ∀ (r : ReturnEvent) (s : State), r.fromCtx.el ≠ .el0 → returnEnabled s.params s.written r.fromCtx.el = false →
    ∃ t, handle (.exceptionReturn r) s = .next t ∧ (portReturn s = r → exec .eret s = .next t) ∧
      t.records = s.records ∧
      (s.params.freeze = .recalled → NothingGenerated s t ∧ Moved s t s.written (loadedCtx r))

/-- "PSTATE.EL is unchanged on an illegal return, so the current Exception level is the target": the context
stays whole, which the spec marks as general knowledge (notes/assumptions/20.md), and with no write pending the
record is a Full one or none (rule R138); the event and `ERET` alike. A delivered target context other than the one it
is executed in is overridden by the model's choice, notes/assumptions/34.md; that a Half record is admitted while a
write is pending is the model's choice between rules R138 and R139, notes/assumptions/36.md. -/
def Obligations.IllegalReturnStaysInItsContext : Prop :=
  ∀ (r : ReturnEvent) (s : State), r.fromCtx.el ≠ .el0 → r.kind = .illegal →
    ∃ t, handle (.exceptionReturn r) s = .next t ∧ (portReturn s = r → exec .eret s = .next t) ∧
      t.ctx = r.fromCtx ∧
      (Quiescent s → t.records = s.records ∨
        ∃ x, t.records = (x :: s.records).take s.params.numrec ∧ x.inf.valid = 0b11#2 ∧
          x.inf.el = r.fromCtx.el.bits)

/-- "the model refuses an `ExceptionReturn` event with `from.el == 0`" (rule R133): so is the `ERET` executed
there. -/
def Obligations.EretAtEL0IsRefused : Prop :=
  ∀ s : State, s.port.ctx.el = .el0 → exec .eret s = .refused .exceptionReturnAtEL0

/-- With no write pending an exception return from AArch64 EL3, the event and `ERET` alike, never generates a
Half-target record (rule R141, which the spec marks as derived). With a write of `MDCR_EL3` pending the early read of
the source side admits one, the model's choice between rules R141 and R139, notes/assumptions/33.md. -/
def Obligations.EretFromEL3IsNeverHalfTarget : Prop :=
  ∀ (r : ReturnEvent) (s t : State), r.fromCtx.el = .el3 → r.fromCtx.aarch32 = false →
    r.fromCtx.debug = false → Quiescent s →
    (handle (.exceptionReturn r) s = .next t ∨ (portReturn s = r ∧ exec .eret s = .next t)) →
    t.records ≠ s.records →
    ∃ x, t.records = (x :: s.records).take s.params.numrec ∧ x.inf.valid ≠ 0b01#2

/-- With no write pending the record of an exception return that leaves a Prohibited region, the event and `ERET`
alike, is Half-target and has an unknown cycle count: decision D9, a choice of the spec and not of the source
(spec/41_cycle_counting.md rule R96; notes/assumptions/15.md). -/
def Obligations.LeavingAProhibitedRegionHidesTheCount : Prop :=
  ∀ (r : ReturnEvent) (s t : State), Quiescent s → s.inProhibited = true →
    prohibited s.params s.synced r.fromCtx = true →
    (handle (.exceptionReturn r) s = .next t ∨ (portReturn s = r ∧ exec .eret s = .next t)) →
    t.records ≠ s.records →
    ∃ x, t.records = (x :: s.records).take s.params.numrec ∧ x.inf.valid = 0b01#2 ∧ x.inf.ccu = true ∧
      x.inf.cc = 0

/-! ### Exceptions and Debug state (spec/44_exception_records.md) -/

/-- An exception completes, and its record is of the kind its two regions give, the source being the preferred return
address and the target the vector, `MPRED` 0 (rules R120 to R122, R126 to R128; spec/40_branch_records.md rule R72;
spec/42_mispredicted_branches.md rule R102). First, with the freeze event as the instance of D20,
notes/assumptions/11.md: the PE moves and synchronizes, recorded or not, and the count is that of
spec/41_cycle_counting.md rules R91 to R97. Withheld because its target level does not enable it, because the unit sees
`PAUSED` or because an open filter answers so, the record leaves the buffer, the count and `LASTFAILED` alone
(spec/40_branch_records.md rule R75; decisions D22 and D8, notes/assumptions/17.md and 9.md). The count on leaving a
Prohibited region is D9, notes/assumptions/15.md; that a source Prohibited on the new controls alone is no such leaving,
notes/assumptions/32.md. Second, under every parameter: no record or that one, and it only when enabled; that a racing
freeze event leaves the buffer is the model's choice, notes/assumptions/11.md. That `EL` is the target level is D11,
notes/assumptions/19.md; the source side is judged on old or new controls by spec/20_memory.md rule R47. -/
def Obligations.ExceptionRecordsByItsRegions : Prop :=
  (∀ (e : ExceptionEvent) (s : State), s.params.freeze = .recalled →
    let withheld : Prop := exceptionEnabled s.params s.written e.toCtx.el = false ∨ s.written.paused = true ∨
      s.params.filter = .unspecified
    ∃ sp t, (sp = prohibited s.params s.synced e.fromCtx ∨ sp = prohibited s.params s.written e.fromCtx) ∧
      handle (.exception e) s = .next t ∧ Moved s t s.written e.toCtx ∧
      (exceptionEnabled s.params s.written e.toCtx.el = false ∨ s.written.paused = true → NothingGenerated s t) ∧
      (sp = true → t.inProhibited = true → NothingGenerated s t) ∧
      (sp = true → t.inProhibited = false → (withheld ∧ NothingGenerated s t) ∨
        ∃ r, Generated s t r ∧ r.inf.valid = 0b01#2 ∧ r.tgt = stripTag s.params e.vector ∧
          r.inf.el = e.toCtx.el.bits ∧ r.inf.type = e.type ∧ r.inf.mpred = false ∧
          Counted s s.written (firstAfterCause s s.written t.ctx) r) ∧
      (sp = false → t.inProhibited = true → (withheld ∧ NothingGenerated s t) ∨
        ∃ r, Generated s t r ∧ r.inf.valid = 0b10#2 ∧ r.src = e.prefRet ∧ r.inf.type = e.type ∧
          r.inf.mpred = false ∧ Counted s s.written (firstAfterCause s s.written t.ctx) r) ∧
      (sp = false → t.inProhibited = false → (withheld ∧ NothingGenerated s t) ∨
        ∃ r, Generated s t r ∧ r.inf.valid = 0b11#2 ∧ r.src = e.prefRet ∧ r.tgt = stripTag s.params e.vector ∧
          r.inf.el = e.toCtx.el.bits ∧ r.inf.type = e.type ∧ r.inf.mpred = false ∧
          Counted s s.written (firstAfterCause s s.written t.ctx) r)) ∧
  (∀ (e : ExceptionEvent) (s : State), ∃ t, handle (.exception e) s = .next t ∧ t.ctx = e.toCtx ∧
    t.params = s.params ∧ t.port = s.port ∧ t.inputs = s.inputs ∧ t.reports = s.reports ∧
    (t.records = s.records ∨
      ∃ r c sp, (sp = prohibited s.params s.synced e.fromCtx ∨ sp = prohibited s.params s.written e.fromCtx) ∧
        captureOf sp (prohibited s.params s.written e.toCtx) e.prefRet e.vector e.toCtx.el = some c ∧
        exceptionEnabled s.params s.written e.toCtx.el = true ∧
        t.records = (r :: s.records).take s.params.numrec ∧ r.inf.valid = captureValid c ∧
        ValidHalves s.params e.prefRet e.vector e.toCtx.el r ∧ r.inf.type = e.type ∧ r.inf.mpred = false))

/-- "When an exception is taken from a BRBE Prohibited region to a BRBE Prohibited region, no Branch record
is generated" (rule R120), under every parameter. -/
def Obligations.ExceptionBetweenProhibitedRegionsIsNotRecorded : Prop :=
  ∀ (e : ExceptionEvent) (s : State), prohibited s.params s.synced e.fromCtx = true →
    prohibited s.params s.written e.fromCtx = true → prohibited s.params s.written e.toCtx = true →
    ∃ t, handle (.exception e) s = .next t ∧ t.records = s.records

/-- "a Branch record is generated only if" the target level of an exception enables it (rule R121), under every
parameter, on the controls as they are after its Context synchronization event. -/
def Obligations.ExceptionIsRecordedOnlyIfItsTargetEnablesIt : Prop :=
  ∀ (e : ExceptionEvent) (s t : State), handle (.exception e) s = .next t → t.records ≠ s.records →
    (e.toCtx.el = .el1 → s.written.brbcrEl1.exception = true) ∧
    (e.toCtx.el = .el2 → s.written.brbcrEl2.exception = true) ∧
    (e.toCtx.el = .el3 → s.params.haveBRBEv1p1 = true ∧ s.params.haveEL3 = true ∧
      s.written.mdcrEl3.e3brec ≠ s.written.mdcrEl3.e3brew)

/-- An exception whose target level does not enable it generates no record, under every parameter. With the freeze
event as the instance of decision D20 (notes/assumptions/11.md) nothing else changes on account of a record either,
the unknown flag among it (rules R121, R75; decision D22, notes/assumptions/17.md); under an open freeze event,
which may race, that is not said. -/
def Obligations.DisabledExceptionGeneratesNothing : Prop :=
  ∀ (e : ExceptionEvent) (s : State), exceptionEnabled s.params s.written e.toCtx.el = false →
    ∃ t, handle (.exception e) s = .next t ∧ t.records = s.records ∧
      (s.params.freeze = .recalled → NothingGenerated s t ∧ Moved s t s.written e.toCtx)

/-- An exception to AArch64 EL3 never generates a Half-source record, pending writes or not (rule R130,
which the spec marks as derived). -/
def Obligations.ExceptionToEL3IsNeverHalfSource : Prop :=
  ∀ (e : ExceptionEvent) (s t : State), e.toCtx.el = .el3 → e.toCtx.aarch32 = false → e.toCtx.debug = false →
    handle (.exception e) s = .next t → t.records ≠ s.records →
    ∃ r, t.records = (r :: s.records).take s.params.numrec ∧ r.inf.valid ≠ 0b10#2

/-- Entering Debug state: no record from a Prohibited region, a Half-source record from another one, with no
enable consulted and the count of spec/41_cycle_counting.md rules R91 to R97; filtering may still withhold it
(rules R123, R129; no enable and `MPRED` 0 are decisions D23 and D10, notes/assumptions/18.md and 16.md; that it is
present when nothing but `PAUSED` filters, D8, notes/assumptions/9.md). -/
def Obligations.DebugEntryIsHalfSourceOrNothing : Prop :=
  ∀ (c : Context) (src : Addr) (n : BranchType) (s : State),
    ∃ t, handle (.debugEntry c src n) s = .next t ∧ Moved s t s.synced { s.ctx with debug := true } ∧
      t.inProhibited = true ∧
      (prohibited s.params s.synced c = true → NothingGenerated s t) ∧
      (prohibited s.params s.synced c = false → NothingGenerated s t ∨
        ∃ r, Generated s t r ∧ r.inf.valid = 0b10#2 ∧ r.src = src ∧ r.inf.type = n ∧ r.inf.mpred = false ∧
          Counted s s.synced s.ccUnknown r) ∧
      (s.synced.paused = true → NothingGenerated s t) ∧
      (prohibited s.params s.synced c = false → s.params.filter = .recalled → s.synced.paused = false →
        ∃ r, Generated s t r)

/-- Leaving Debug state: no record to a Prohibited region, a Half-target record to another one, with no
enable consulted; its count is unknown when the PE leaves a Prohibited region; filtering may still withhold it
(spec/45_exception_return_records.md rules R135, R140; no enable, `MPRED` 0, the unknown count and `EL` are
decisions D23, D10, D9 and D11, notes/assumptions/18.md, 16.md, 15.md and 19.md; that it is present when nothing but
`PAUSED` filters, D8, notes/assumptions/9.md). That an exit delivered outside a Prohibited region is accepted, with the
count `Rebook` gives it, is the model's choice, notes/assumptions/35.md. -/
def Obligations.DebugExitIsHalfTargetOrNothing : Prop :=
  ∀ (c : Context) (tgt : Addr) (n : BranchType) (s : State),
    ∃ t, handle (.debugExit c tgt n) s = .next t ∧ Moved s t s.synced c ∧
      (prohibited s.params s.synced c = true → NothingGenerated s t) ∧
      (prohibited s.params s.synced c = false → NothingGenerated s t ∨
        ∃ r, Generated s t r ∧ r.inf.valid = 0b01#2 ∧ r.tgt = stripTag s.params tgt ∧
          r.inf.el = c.el.bits ∧ r.inf.type = n ∧ r.inf.mpred = false ∧
          Counted s s.synced (s.ccUnknown || s.inProhibited) r ∧
          (s.inProhibited = true → r.inf.ccu = true ∧ r.inf.cc = 0)) ∧
      (s.synced.paused = true → NothingGenerated s t) ∧
      (prohibited s.params s.synced c = false → s.params.filter = .recalled → s.synced.paused = false →
        ∃ r, Generated s t r)

/-! ### Taken branches and the fields of a record (spec/40 to spec/42) -/

/-- A taken branch outside a Prohibited region pushes the Full record of rules R73 and R74 and resets the
bookkeeping, or is filtered and changes nothing; with no filter but `PAUSED`, and `PAUSED` clear, it is
recorded. A target with no address tag is recorded as it is (spec/20_memory.md rule R42), and the recalled
`StripTag` copies bit 55 over bits 63 to 56 and leaves the others (GK12, notes/assumptions/19.md). The source
address and `EL` are decision D11, notes/assumptions/19.md; `PAUSED` is D8, notes/assumptions/9.md. -/
def Obligations.TakenBranchPushesAFullRecord : Prop :=
  ∀ (b : BranchEvent) (s : State), prohibited s.params s.synced b.ctx = false →
    ∃ t r, (handle (.takenBranch b) s = .next t ∨ handle (.takenBranch b) s = .next s) ∧
      (s.params.filter = .recalled → s.synced.paused = false → handle (.takenBranch b) s = .next t) ∧
      t = { s with
        records := (r :: s.records).take s.params.numrec, lastFailed := false, cyc := 0, ccUnknown := false
        free := { s.free with record := s.free.record + 1 } } ∧
      r.inf.valid = 0b11#2 ∧ r.src = b.src ∧ r.tgt = stripTag s.params b.tgt ∧
      (NoTag s.params b.tgt → r.tgt = b.tgt) ∧
      (s.params.stripTag = .recalled →
        ∀ i < 64, r.tgt.getLsbD i = b.tgt.getLsbD (if i < 56 then i else 55)) ∧
      r.inf.el = b.ctx.el.bits ∧ r.inf.type = b.type ∧ r.inf.lastFailed = s.lastFailed ∧
      r.inf.mpred = (b.mispredicted && s.synced.brbcrEl1.mpred && (!s.params.haveEL2 || s.synced.brbcrEl2.mpred))

/-- A taken branch in a Prohibited region, or while the unit sees `PAUSED`, changes nothing at all
(spec/43_prohibited_regions.md rule R116; rules R73, R75; decisions D8 and D22, notes/assumptions/9.md and
17.md). -/
def Obligations.SuppressedBranchChangesNothing : Prop :=
  ∀ (b : BranchEvent) (s : State), prohibited s.params s.synced b.ctx = true ∨ s.synced.paused = true →
    handle (.takenBranch b) s = .next s

/-- The cycle count of a taken branch's record: unknown unless counting is enabled (`BRBCR_EL1.CC`, and
`BRBCR_EL2.CC` where EL2 is implemented, are 1) and the record is not the first after one of the causes, else all
ones beyond the counter's maximum, else encoded (spec/41_cycle_counting.md rules R91 to R94, R97; what counts as
enabled the spec marks as derived). -/
def Obligations.CycleCountIsUnknownSaturatedOrEncoded : Prop :=
  ∀ (b : BranchEvent) (s t : State), handle (.takenBranch b) s = .next t → t ≠ s →
    ∃ r, t.records = (r :: s.records).take s.params.numrec ∧
      (s.synced.brbcrEl1.cc = false ∨ (s.params.haveEL2 = true ∧ s.synced.brbcrEl2.cc = false) ∨
        s.ccUnknown = true → r.inf.ccu = true ∧ r.inf.cc = 0) ∧
      (s.synced.brbcrEl1.cc = true → (s.params.haveEL2 = false ∨ s.synced.brbcrEl2.cc = true) →
        s.ccUnknown = false →
        (s.params.ccMax < s.cyc → r.inf.ccu = false ∧ r.inf.cc = 2 ^ s.params.ccw - 1) ∧
        (s.cyc ≤ s.params.ccMax → r.inf.ccu = false ∧ r.inf.cc = encodeCC s.params s.cyc))

/-- Every record that an event other than `BRB IALL` and `BRB INJ`, or an `ERET`, generates takes the copy of
`BRBFCR_EL1.LASTFAILED` and clears it, and starts the count anew (spec/46_tme_and_speculation.md rule R148,
spec/40_branch_records.md rule R74; the freeze event as rule R160 recommends it, notes/assumptions/11.md). -/
def Obligations.EveryGeneratedRecordTakesLastFailed : Prop :=
  ∀ (e : Event) (s t : State), s.params.freeze = .recalled → (∀ c, e ≠ .brbIall c ∧ e ≠ .brbInj c) →
    handle e s = .next t ∨ exec .eret s = .next t → t.records ≠ s.records → ∃ r, Generated s t r

/-- With the freeze event as the instance of decision D20 (notes/assumptions/11.md; an open one may race and clear
`PAUSED` ahead of a record), while `PAUSED` is 1 in both views no event but `BRB IALL` and `BRB INJ`, and no `ERET`,
changes the buffer: decision D8, a choice of the spec and not of the source (spec/43_prohibited_regions.md rule R117;
notes/assumptions/9.md). Exceptions, exception returns, `ERET` and Debug state entry and exit change nothing on account
of a record, and a taken branch nothing at all (spec/40_branch_records.md rule R75, decision D22,
notes/assumptions/17.md). -/
def Obligations.PausedUnitGeneratesNoRecord : Prop :=
  ∀ s t : State, s.params.freeze = .recalled → s.synced.paused = true → s.written.paused = true →
    (∀ e, (∀ c, e ≠ .brbIall c ∧ e ≠ .brbInj c) → handle e s = .next t → t.records = s.records) ∧
    (exec .eret s = .next t → t.records = s.records ∧ NothingGenerated s t) ∧
    (∀ b, handle (.takenBranch b) s = .next t → t = s) ∧
    (∀ e, (∃ x, e = .exception x) ∨ (∃ r, e = .exceptionReturn r) ∨ (∃ c a n, e = .debugEntry c a n) ∨
      (∃ c a n, e = .debugExit c a n) → handle e s = .next t → NothingGenerated s t)

/-- One clock cycle counts when the thread is active, and only then (spec/41_cycle_counting.md rule R88). That an
active cycle counts in every state (in a Prohibited region, while paused, with counting disabled) is decision D26,
a choice of the spec and not of the source (rule R95; notes/assumptions/25.md). A PE that is not multithreaded
delivers no inactive cycle, and the model refuses one by its own choice (notes/assumptions/8.md). -/
def Obligations.TheCounterCountsActiveCycles : Prop :=
  ∀ s : State, handle (.tick true) s = .next { s with cyc := s.cyc + 1 } ∧ handle (.tick false) s = .next s ∧
    (s.params.multithreaded = false → ∀ rest, s.inputs = .event (.tick false) :: rest →
      step s = .refused (.illegalInput .inactiveSingleThread))

/-! ### Prohibited regions (spec/43_prohibited_regions.md) -/

/-- Execution is a Prohibited region exactly when rules R108 to R115 say so, on a PE that has EL3. That it is one
"only when" they say so is the spec's own inference (R108, marked derived; so are the values 0b10 and 0b11 of
`SBRBE` in spec/10_state.md rule R26). -/
def Obligations.ProhibitedRegionsByLevel : Prop :=
  ∀ (p : Params) (v : Controls) (c : Context),
    (c.aarch32 = true → prohibited p v c = true) ∧ (c.debug = true → prohibited p v c = true) ∧
    (p.haveEL3 = true → c.aarch32 = false → c.debug = false →
      (c.el = .el3 → (prohibited p v c = true ↔
        p.haveBRBEv1p1 = false ∨ v.mdcrEl3.e3brec = v.mdcrEl3.e3brew)) ∧
      (c.el = .el2 → (prohibited p v c = true ↔ v.brbcrEl2.e2bre = false ∨ v.mdcrEl3.sbrbe = 0b00#2 ∨
        (v.mdcrEl3.sbrbe = 0b01#2 ∧ c.secure = true))) ∧
      (c.el = .el1 → (prohibited p v c = true ↔ v.brbcrEl1.e1bre = false ∨ v.mdcrEl3.sbrbe = 0b00#2 ∨
        (v.mdcrEl3.sbrbe = 0b01#2 ∧ c.secure = true))) ∧
      (c.el = .el0 → (prohibited p v c = true ↔
        ((c.el2Enabled = false ∨ v.tge = false) ∧ v.brbcrEl1.e0bre = false) ∨
        ((c.el2Enabled = true ∧ v.tge = true) ∧ v.brbcrEl2.e0hbre = false) ∨ v.mdcrEl3.sbrbe = 0b00#2 ∨
        (v.mdcrEl3.sbrbe = 0b01#2 ∧ c.secure = true))))

/-- The exact values of the enables: a record of an exception is enabled by the `EXCEPTION` bit of its target level, one
of an exception return by the `ERTN` bit of the level it is executed at, and at EL3 both by self-hosted EL3 branch
recording (spec/44_exception_records.md rule R121, spec/45_exception_return_records.md rule R133, rule R111).
A register of a level that the PE does not have plays no part, with the exact values: without EL3 nothing is
prohibited by `MDCR_EL3` and EL3 records nothing; without EL2 counting and `MPRED` follow `BRBCR_EL1` alone, and no
EL2 control bears on a region. Decision D7, a choice of the spec and not of the source (rules R108, R111,
spec/41_cycle_counting.md rule R97, spec/42_mispredicted_branches.md rule R105; notes/assumptions/23.md). -/
def Obligations.AbsentLevelsPlayNoPart : Prop :=
  ∀ (p : Params) (v w : Controls) (c : Context) (m : Bool),
    (exceptionEnabled p v .el1 = v.brbcrEl1.exception ∧ exceptionEnabled p v .el2 = v.brbcrEl2.exception ∧
      exceptionEnabled p v .el3 = (p.haveBRBEv1p1 && p.haveEL3 && (v.mdcrEl3.e3brec != v.mdcrEl3.e3brew))) ∧
    (returnEnabled p v .el1 = v.brbcrEl1.ertn ∧ returnEnabled p v .el2 = v.brbcrEl2.ertn ∧
      returnEnabled p v .el3 = (p.haveBRBEv1p1 && p.haveEL3 && (v.mdcrEl3.e3brec != v.mdcrEl3.e3brew))) ∧
    (p.haveEL3 = false →
      exceptionEnabled p v .el3 = false ∧ returnEnabled p v .el3 = false ∧
      (c.aarch32 = true ∨ c.debug = true → prohibited p v c = true) ∧
      (c.aarch32 = false → c.debug = false → prohibited p v c = match c.el with
        | .el3 => true
        | .el2 => !v.brbcrEl2.e2bre
        | .el1 => !v.brbcrEl1.e1bre
        | .el0 => if c.el2Enabled && v.tge then !v.brbcrEl2.e0hbre else !v.brbcrEl1.e0bre)) ∧
    (p.haveEL2 = false →
      ccEnabled p v = v.brbcrEl1.cc ∧ branchMPred p v m = (m && v.brbcrEl1.mpred) ∧
      (c.illegal p = none →
        prohibited p { v with brbcrEl2 := w.brbcrEl2, tge := w.tge } c = prohibited p v c ∧
        (c.el = .el0 → c.aarch32 = false → c.debug = false → p.haveEL3 = false →
          prohibited p v c = !v.brbcrEl1.e0bre))) ∧
    (p.haveEL2 = true →
      ccEnabled p v = (v.brbcrEl1.cc && v.brbcrEl2.cc) ∧
      branchMPred p v m = (m && v.brbcrEl1.mpred && v.brbcrEl2.mpred))

/-- Taken branches and clock cycles inside a Prohibited region leave no trace but the clock: however many
branches there are, the state after them differs from the state before in the counter alone, by the number
of cycles (spec/43_prohibited_regions.md rule R116, spec/41_cycle_counting.md rule R95; that the counter goes on
is decision D26, notes/assumptions/25.md). -/
def Obligations.ProhibitedExecutionLeavesOnlyTheClock : Prop :=
  ∀ (s : State) (q : List Event) (rest : List Input),
    (∀ e ∈ q, e = .tick true ∨ ∃ b, e = .takenBranch b ∧ e.illegal s.params = none ∧
      prohibited s.params s.synced b.ctx = true) →
    Sys2Proof.core.run q.length { s with inputs := q.map .event ++ rest } =
      .next { s with inputs := rest, cyc := s.cyc + q.count (.tick true) }

/-- What an exception or an exception return leaves does not depend on where in a Prohibited region it was taken from
or executed, nor on where in one it goes (rule R116, spec/44_exception_records.md rule R122,
spec/45_exception_return_records.md rule R134; nothing filtered but by `PAUSED`, notes/assumptions/9.md). An `ERET`
leaves states that differ in the port that presented the address alone, said with the freeze event as the instance
of decision D20, since an open one reads the port too (notes/assumptions/11.md). -/
def Obligations.ExceptionHidesTheProhibitedSide : Prop :=
  ∀ (e : ExceptionEvent) (r : ReturnEvent) (a : Addr) (s : State), s.params.filter = .recalled →
    (prohibited s.params s.synced e.fromCtx = true → prohibited s.params s.written e.fromCtx = true →
      handle (.exception { e with prefRet := a }) s = handle (.exception e) s) ∧
    (prohibited s.params s.written e.toCtx = true →
      handle (.exception { e with vector := a }) s = handle (.exception e) s) ∧
    (prohibited s.params s.synced r.fromCtx = true → prohibited s.params s.written r.fromCtx = true →
      handle (.exceptionReturn { r with src := a }) s = handle (.exceptionReturn r) s) ∧
    (prohibited s.params s.written (loadedCtx r) = true →
      handle (.exceptionReturn { r with tgt := a }) s = handle (.exceptionReturn r) s) ∧
    (s.params.freeze = .recalled → s.port.ctx.el ≠ .el0 →
      ∃ t, exec .eret s = .next t ∧
        (prohibited s.params s.synced s.port.ctx = true → prohibited s.params s.written s.port.ctx = true →
          exec .eret { s with port.src := a } = .next { t with port.src := a }) ∧
        (prohibited s.params s.written (loadedCtx (portReturn s)) = true →
          exec .eret { s with port.tgt := a } = .next { t with port.tgt := a }))

/-! ### Transactions (spec/46_tme_and_speculation.md) -/

/-- A transaction that fails or is canceled generates no record and removes none; `LASTFAILED` is set when all of
it ran in Non-prohibited regions, unchanged when all of it ran in Prohibited ones, either when partly in each
(rules R145 to R147, R149, R150). -/
def Obligations.TransactionFailureSetsLastFailed : Prop :=
  ∀ s : State, ∃ l k, handle .txnFailOrCancel s =
      .next { s with lastFailed := l, txn := .none, free := { s.free with choice := k } } ∧
    (s.txn = .allNP → l = true) ∧ (s.txn = .allP → l = s.lastFailed) ∧
    (s.txn = .mixed → l = true ∨ l = s.lastFailed)

/-- A transaction starts in the class of the current region; its commit changes nothing else (rule R153, which
the spec marks as derived). A start inside a transaction changes nothing, the first commit ends the transaction, that of
one started inside it too, and a failure or cancel with no transaction in progress changes nothing: the model's choice,
notes/assumptions/22.md. -/
def Obligations.TransactionStartTakesItsRegion : Prop :=
  ∀ s : State, (s.txn = .none → s.inProhibited = true → handle .txnStart s = .next { s with txn := .allP }) ∧
    (s.txn = .none → s.inProhibited = false → handle .txnStart s = .next { s with txn := .allNP }) ∧
    (s.txn ≠ .none → handle .txnStart s = .next s) ∧ (s.txn = .none → handle .txnFailOrCancel s = .next s) ∧
    handle .txnEnd s = .next { s with txn := .none }

/-! ### Register access, visibility and the freeze event (spec/47_brb_instructions.md, spec/20_memory.md) -/

/-- A permitted write completes. Of a control field it changes only what software reads: the unit sees no new control
value, and every other field of State stays. A write of `LASTFAILED` or of an opaque remainder stores its value at
once, and one of the injection source changes the injection source, each with nothing else (rule R157,
spec/20_memory.md rule R45; decisions D18 and D21, notes/assumptions/24.md and 21.md). -/
def Obligations.RegisterWriteWaitsForSynchronization : Prop :=
  ∀ (w : RegWrite) (s : State), brbAccessCheck s.params s.ctx (.write (writeReg w)) = .allowed →
    writeRefusal s.params w = none →
    ∃ t, handle (.sysRegWrite w) s = .next t ∧ t.synced = s.synced ∧
      (∀ v, w = .lastFailed v → t = { s with lastFailed := v }) ∧
      (∀ v, w = .rest1 v → t = { s with rest1 := v }) ∧
      (∀ v, w = .rest2 v → t = { s with rest2 := v }) ∧
      (writeReg w = .injection → t = { s with injection := t.injection }) ∧
      (writeReg w ≠ .injection → (∀ v, w ≠ .lastFailed v) → (∀ v, w ≠ .rest1 v) → (∀ v, w ≠ .rest2 v) →
        t = { s with written := t.written })

/-- What each permitted field write stores and what each permitted read of a control register returns: a write
changes the named field of what software reads and nothing else, `LASTFAILED`, the two opaque remainders and the
injection source at once (rules R157, R158; decision D18, notes/assumptions/24.md; the access check as rule R161
recommends it, asked of the current context, notes/assumptions/10.md and 24.md). -/
def Obligations.SoftwareReadsBackItsWrites : Prop :=
  ∀ s : State, s.params.access = .recalled → s.ctx.el ≠ .el0 →
    let stores := fun (w : RegWrite) (t : State) => handle (.sysRegWrite w) s = .next t
    (∀ v, stores (.e0bre v) { s with written.brbcrEl1.e0bre := v } ∧
      stores (.e1bre v) { s with written.brbcrEl1.e1bre := v } ∧
      stores (.cc1 v) { s with written.brbcrEl1.cc := v } ∧
      stores (.mpred1 v) { s with written.brbcrEl1.mpred := v } ∧
      stores (.exception1 v) { s with written.brbcrEl1.exception := v } ∧
      stores (.ertn1 v) { s with written.brbcrEl1.ertn := v } ∧
      stores (.paused v) { s with written.paused := v } ∧ stores (.lastFailed v) { s with lastFailed := v }) ∧
    (s.params.haveEL2 = true → ∀ v, stores (.e0hbre v) { s with written.brbcrEl2.e0hbre := v } ∧
      stores (.e2bre v) { s with written.brbcrEl2.e2bre := v } ∧
      stores (.cc2 v) { s with written.brbcrEl2.cc := v } ∧
      stores (.mpred2 v) { s with written.brbcrEl2.mpred := v } ∧
      stores (.exception2 v) { s with written.brbcrEl2.exception := v } ∧
      stores (.ertn2 v) { s with written.brbcrEl2.ertn := v } ∧ stores (.tge v) { s with written.tge := v }) ∧
    (s.params.haveEL3 = true → (∀ v, stores (.sbrbe v) { s with written.mdcrEl3.sbrbe := v }) ∧
      ∀ v, stores (.e3brec v) { s with written.mdcrEl3.e3brec := v } ∧
        stores (.e3brew v) { s with written.mdcrEl3.e3brew := v }) ∧
    (∀ v, stores (.rest1 v) { s with rest1 := v } ∧
      (s.params.haveEL2 = true → stores (.rest2 v) { s with rest2 := v })) ∧
    (∀ v, stores (.injValid v) { s with injection.inf.valid := v } ∧
      stores (.injEl v) { s with injection.inf.el := v }) ∧
    (∀ n, stores (.injType n) { s with injection.inf.type := n } ∧
      (n < 2 ^ s.params.ccw → stores (.injCc n) { s with injection.inf.cc := n })) ∧
    (∀ v, stores (.injMpred v) { s with injection.inf.mpred := v } ∧
      stores (.injCcu v) { s with injection.inf.ccu := v } ∧
      stores (.injLastFailed v) { s with injection.inf.lastFailed := v }) ∧
    (∀ a, stores (.injSrc a) { s with injection.src := a } ∧ stores (.injTgt a) { s with injection.tgt := a }) ∧
    Reads s .brbcrEl1 (.brbcrEl1 s.written.brbcrEl1 s.rest1) ∧
    Reads s .brbfcrEl1 (.brbfcrEl1 s.written.paused s.lastFailed) ∧
    Reads s .brbidr0El1 (.brbidr0El1 (idr0CC s.params)) ∧
    (s.params.haveEL2 = true → Reads s .brbcrEl2 (.brbcrEl2 s.written.brbcrEl2 s.rest2) ∧
      Reads s .hcrEl2 (.hcrEl2 s.written.tge)) ∧
    (s.params.haveEL3 = true → Reads s .mdcrEl3 (.mdcrEl3 s.written.mdcrEl3))

/-- Where the access check allows the reads, a record's three registers return what its `VALID` makes meaningful and
have no side effect on the unit: of a Full record every field; of a Half-source one the source and all of `INF` but
`EL`; of a Half-target one the target and all of `INF`; of an invalid one that it is invalid. The other address is
read too, as some value (rule R158, spec/10_state.md rule R20; decision D18, notes/assumptions/24.md). -/
def Obligations.ReadingAFullRecordReturnsIt : Prop :=
  ∀ (n : Nat) (r : Record) (s : State),
    (∀ x ∈ [Reg.brbinf n, .brbsrc n, .brbtgt n], brbAccessCheck s.params s.ctx (.read x) = .allowed) →
    s.records[n]? = some r →
    (r.inf.valid = 0b11#2 → Reads s (.brbinf n) (.inf r.inf) ∧ Reads s (.brbsrc n) (.address r.src) ∧
      Reads s (.brbtgt n) (.address r.tgt)) ∧
    (r.inf.valid = 0b10#2 → (∃ el, Reads s (.brbinf n) (.inf { r.inf with el := el })) ∧
      Reads s (.brbsrc n) (.address r.src) ∧ ∃ a, Reads s (.brbtgt n) (.address a)) ∧
    (r.inf.valid = 0b01#2 → Reads s (.brbinf n) (.inf r.inf) ∧ (∃ a, Reads s (.brbsrc n) (.address a)) ∧
      Reads s (.brbtgt n) (.address r.tgt)) ∧
    (r.inf.valid = 0b00#2 → (∃ x : BrbInf, x.valid = 0b00#2 ∧ Reads s (.brbinf n) (.inf x)) ∧
      (∃ a, Reads s (.brbsrc n) (.address a)) ∧ ∃ a, Reads s (.brbtgt n) (.address a))

/-- No read has a side effect on the unit: it changes what was handed to the PE and the model's counters of reads
alone, and draws no free value of a record or a choice (rule R158; decision D18, notes/assumptions/24.md). -/
def Obligations.ReadsHaveNoSideEffect : Prop :=
  ∀ (r : Reg) (s t : State), handle (.sysRegRead r) s = .next t →
    ∃ x f, t = { s with reports := x :: s.reports, free := f } ∧ f.record = s.free.record ∧
      f.choice = s.free.choice

/-- An access that the access check allows is refused by name where it has no effect or value: a read beyond the
buffer, a write to a record register or to `BRBIDR0_EL1` (rules R157, R158; decision D18, notes/assumptions/24.md);
an access to a register of a level that the PE does not have (spec/10_state.md rules R22, R26, R27), and a read of the
registers behind the injection source, of which the spec gives only the write: that the model stops at these two is
its choice, notes/assumptions/24.md. -/
def Obligations.ReadOnlyAndAbsentRecordsAreRefused : Prop :=
  ∀ (n : Nat) (r : Reg) (w : RegWrite) (s : State),
    let reads := fun (x : Reg) (why : Refusal) => brbAccessCheck s.params s.ctx (.read x) = .allowed →
      handle (.sysRegRead x) s = .refused why
    let writes := fun (x : RegWrite) (why : Refusal) =>
      brbAccessCheck s.params s.ctx (.write (writeReg x)) = .allowed → handle (.sysRegWrite x) s = .refused why
    (s.records.length ≤ n → reads (.brbinf n) (.recordOutOfRange (.brbinf n)) ∧
      reads (.brbsrc n) (.recordOutOfRange (.brbsrc n)) ∧ reads (.brbtgt n) (.recordOutOfRange (.brbtgt n))) ∧
    writes (.readOnly r) (.readOnlyRegister r) ∧
    ((r = .brbcrEl2 ∨ r = .hcrEl2) ∧ s.params.haveEL2 = false ∨ r = .mdcrEl3 ∧ s.params.haveEL3 = false →
      reads r (.absentRegister r) ∧
      (writeReg w = r → (∀ x, w ≠ .readOnly x) → writes w (.absentRegister r))) ∧
    reads .injection (.unreadableRegister .injection)

/-- Under the access check that rule R161 recommends, EL0 reaches nothing: every `BRB` instruction outside a
transaction and every register access is reported undefined, with no other effect. At EL1, EL2 and EL3 it allows every
operation, and both `BRB` instructions have their effect (rules R154, R155; decisions D12 and D13,
notes/assumptions/13.md and 14.md). The instance is decision D15, which leaves trap controls out; that a register
access is judged in the current context is the model's choice, notes/assumptions/10.md and 24.md. -/
def Obligations.EL0ReachesNothing : Prop :=
  ∀ (w : RegWrite) (r : Reg) (c : Context) (s : State), s.params.access = .recalled →
    let undefined : Host.Outcome State Fault Refusal :=
      .next { s with reports := .undefinedInstruction :: s.reports }
    (s.ctx.el = .el0 → handle (.sysRegWrite w) s = undefined ∧ handle (.sysRegRead r) s = undefined) ∧
    (c.el = .el0 → s.txn = .none → handle (.brbIall c) s = undefined ∧ handle (.brbInj c) s = undefined ∧
      (s.port.ctx = c → exec .brbIall s = undefined ∧ exec .brbInj s = undefined)) ∧
    (c.el ≠ .el0 → (∀ op, brbAccessCheck s.params c op = .allowed) ∧ (s.txn = .none →
      ∃ rs, rs.length = s.records.length ∧ (∀ x ∈ rs, x.inf.valid = 0b00#2) ∧
        let invalid : Host.Outcome State Fault Refusal := .next { s with records := rs, ccUnknown := true }
        let injected : Host.Outcome State Fault Refusal :=
          .next { s with records := (s.injection :: s.records).take s.params.numrec }
        handle (.brbIall c) s = invalid ∧ handle (.brbInj c) s = injected ∧
          (s.port.ctx = c → exec .brbIall s = invalid ∧ exec .brbInj s = injected)))

/-- The step `Propagate(f)` copies the named field alone and runs the bookkeeping of spec/41_cycle_counting.md rule
R96 and spec/46_tme_and_speculation.md rule R153, nothing else; taken for every field in any order, it leaves the
controls that one Context synchronization event leaves (spec/20_memory.md rule R45; decision D21,
notes/assumptions/21.md). -/
def Obligations.PropagatingEveryFieldSynchronizes : Prop :=
  (∀ (f : ControlField) (s : State), ∃ v, handle (.propagate f) s = .next { s with
      synced := v
      inProhibited := prohibited s.params v s.ctx
      ccUnknown := firstAfterCause s v s.ctx
      txn := if s.inProhibited = prohibited s.params v s.ctx then s.txn else mixTxn s.txn } ∧
    controlField v f = controlField s.written f ∧ ∀ g, g ≠ f → controlField v g = controlField s.synced g) ∧
  (∀ (fs : List ControlField) (s : State), (∀ f, f ∈ fs) →
    (fs.foldl (fun t f => propagate f t) s).synced = (contextSync s).synced)

/-- A freeze event generates no record; the open `FreezeEffect` leaves the PE's context, its delivery and the
parameters alone, and the region follows; no unknown count becomes known. The effect that rule R160 recommends sets
`PAUSED` in both views and changes nothing else but by the bookkeeping (decision D20, notes/assumptions/11.md). -/
def Obligations.FreezeGeneratesNoRecord : Prop :=
  ∀ s : State, ∃ t, handle .freeze s = .next t ∧
    t = { s with
      written := t.written, synced := t.synced, rest1 := t.rest1, rest2 := t.rest2
      lastFailed := t.lastFailed, cyc := t.cyc, ccUnknown := t.ccUnknown, inProhibited := t.inProhibited
      txn := t.txn, injection := t.injection } ∧
    t.inProhibited = prohibited s.params t.synced s.ctx ∧ (s.ccUnknown = true → t.ccUnknown = true) ∧
    (s.params.freeze = .recalled → t.written = { s.written with paused := true } ∧
      Moved { s with written := t.written } t { s.synced with paused := true } s.ctx ∧ NothingGenerated s t)
end

