-- ==== Sys2Proof/Laws/State.lean ====
section
/-! SUPPORT. What each named operation makes of each field of the state, one lemma per field, so that no
later proof unfolds a record update. -/

namespace Sys2Proof.Machine

open Sys2Proof

variable (s : State)

/-! ### `report` -/

@[simp] theorem report_params (r : Report) : (report r s).params = s.params := rfl
@[simp] theorem report_records (r : Report) : (report r s).records = s.records := rfl
@[simp] theorem report_written (r : Report) : (report r s).written = s.written := rfl
@[simp] theorem report_synced (r : Report) : (report r s).synced = s.synced := rfl
@[simp] theorem report_rest1 (r : Report) : (report r s).rest1 = s.rest1 := rfl
@[simp] theorem report_rest2 (r : Report) : (report r s).rest2 = s.rest2 := rfl
@[simp] theorem report_lastFailed (r : Report) : (report r s).lastFailed = s.lastFailed := rfl
@[simp] theorem report_cyc (r : Report) : (report r s).cyc = s.cyc := rfl
@[simp] theorem report_ccUnknown (r : Report) : (report r s).ccUnknown = s.ccUnknown := rfl
@[simp] theorem report_txn (r : Report) : (report r s).txn = s.txn := rfl
@[simp] theorem report_inProhibited (r : Report) : (report r s).inProhibited = s.inProhibited := rfl
@[simp] theorem report_injection (r : Report) : (report r s).injection = s.injection := rfl
@[simp] theorem report_ctx (r : Report) : (report r s).ctx = s.ctx := rfl
@[simp] theorem report_port (r : Report) : (report r s).port = s.port := rfl
@[simp] theorem report_inputs (r : Report) : (report r s).inputs = s.inputs := rfl
@[simp] theorem report_reports (r : Report) : (report r s).reports = r :: s.reports := rfl
@[simp] theorem report_free (r : Report) : (report r s).free = s.free := rfl

/-! ### `push` -/

@[simp] theorem push_params (r : Record) : (push r s).params = s.params := rfl
@[simp] theorem push_records (r : Record) :
    (push r s).records =
      (r :: s.records).take s.params.numrec := rfl
@[simp] theorem push_written (r : Record) : (push r s).written = s.written := rfl
@[simp] theorem push_synced (r : Record) : (push r s).synced = s.synced := rfl
@[simp] theorem push_rest1 (r : Record) : (push r s).rest1 = s.rest1 := rfl
@[simp] theorem push_rest2 (r : Record) : (push r s).rest2 = s.rest2 := rfl
@[simp] theorem push_lastFailed (r : Record) : (push r s).lastFailed = s.lastFailed := rfl
@[simp] theorem push_cyc (r : Record) : (push r s).cyc = s.cyc := rfl
@[simp] theorem push_ccUnknown (r : Record) : (push r s).ccUnknown = s.ccUnknown := rfl
@[simp] theorem push_txn (r : Record) : (push r s).txn = s.txn := rfl
@[simp] theorem push_inProhibited (r : Record) : (push r s).inProhibited = s.inProhibited := rfl
@[simp] theorem push_injection (r : Record) : (push r s).injection = s.injection := rfl
@[simp] theorem push_ctx (r : Record) : (push r s).ctx = s.ctx := rfl
@[simp] theorem push_port (r : Record) : (push r s).port = s.port := rfl
@[simp] theorem push_inputs (r : Record) : (push r s).inputs = s.inputs := rfl
@[simp] theorem push_reports (r : Record) : (push r s).reports = s.reports := rfl
@[simp] theorem push_free (r : Record) : (push r s).free = s.free := rfl

/-! ### `generateRecord` -/

@[simp] theorem generateRecord_params (c : Capture) (type : BranchType) (mpred : Bool) :
    (generateRecord c type mpred s).params =
      s.params := rfl
@[simp] theorem generateRecord_records (c : Capture) (type : BranchType) (mpred : Bool) :
    (generateRecord c type mpred s).records =
      (newRecord c type mpred s :: s.records).take s.params.numrec := rfl
@[simp] theorem generateRecord_written (c : Capture) (type : BranchType) (mpred : Bool) :
    (generateRecord c type mpred s).written =
      s.written := rfl
@[simp] theorem generateRecord_synced (c : Capture) (type : BranchType) (mpred : Bool) :
    (generateRecord c type mpred s).synced =
      s.synced := rfl
@[simp] theorem generateRecord_rest1 (c : Capture) (type : BranchType) (mpred : Bool) :
    (generateRecord c type mpred s).rest1 =
      s.rest1 := rfl
@[simp] theorem generateRecord_rest2 (c : Capture) (type : BranchType) (mpred : Bool) :
    (generateRecord c type mpred s).rest2 =
      s.rest2 := rfl
@[simp] theorem generateRecord_lastFailed (c : Capture) (type : BranchType) (mpred : Bool) :
    (generateRecord c type mpred s).lastFailed =
      false := rfl
@[simp] theorem generateRecord_cyc (c : Capture) (type : BranchType) (mpred : Bool) :
    (generateRecord c type mpred s).cyc =
      0 := rfl
@[simp] theorem generateRecord_ccUnknown (c : Capture) (type : BranchType) (mpred : Bool) :
    (generateRecord c type mpred s).ccUnknown =
      false := rfl
@[simp] theorem generateRecord_txn (c : Capture) (type : BranchType) (mpred : Bool) :
    (generateRecord c type mpred s).txn =
      s.txn := rfl
@[simp] theorem generateRecord_inProhibited (c : Capture) (type : BranchType) (mpred : Bool) :
    (generateRecord c type mpred s).inProhibited =
      s.inProhibited := rfl
@[simp] theorem generateRecord_injection (c : Capture) (type : BranchType) (mpred : Bool) :
    (generateRecord c type mpred s).injection =
      s.injection := rfl
@[simp] theorem generateRecord_ctx (c : Capture) (type : BranchType) (mpred : Bool) :
    (generateRecord c type mpred s).ctx =
      s.ctx := rfl
@[simp] theorem generateRecord_port (c : Capture) (type : BranchType) (mpred : Bool) :
    (generateRecord c type mpred s).port =
      s.port := rfl
@[simp] theorem generateRecord_inputs (c : Capture) (type : BranchType) (mpred : Bool) :
    (generateRecord c type mpred s).inputs =
      s.inputs := rfl
@[simp] theorem generateRecord_reports (c : Capture) (type : BranchType) (mpred : Bool) :
    (generateRecord c type mpred s).reports =
      s.reports := rfl
@[simp] theorem generateRecord_free (c : Capture) (type : BranchType) (mpred : Bool) :
    (generateRecord c type mpred s).free =
      { s.free with record := s.free.record + 1 } := rfl

/-! ### `rebook` -/

@[simp] theorem rebook_params (before : Controls) : (rebook before s).params = s.params := rfl
@[simp] theorem rebook_records (before : Controls) : (rebook before s).records = s.records := rfl
@[simp] theorem rebook_written (before : Controls) : (rebook before s).written = s.written := rfl
@[simp] theorem rebook_synced (before : Controls) : (rebook before s).synced = s.synced := rfl
@[simp] theorem rebook_rest1 (before : Controls) : (rebook before s).rest1 = s.rest1 := rfl
@[simp] theorem rebook_rest2 (before : Controls) : (rebook before s).rest2 = s.rest2 := rfl
@[simp] theorem rebook_lastFailed (before : Controls) : (rebook before s).lastFailed = s.lastFailed := rfl
@[simp] theorem rebook_cyc (before : Controls) : (rebook before s).cyc = s.cyc := rfl
@[simp] theorem rebook_ccUnknown (before : Controls) :
    (rebook before s).ccUnknown =
      (s.ccUnknown || (!ccEnabled s.params before && ccEnabled s.params s.synced) ||
        (before.paused && !s.synced.paused) || (s.inProhibited && !prohibited s.params s.synced s.ctx)) := rfl
@[simp] theorem rebook_txn (before : Controls) :
    (rebook before s).txn =
      if s.inProhibited == prohibited s.params s.synced s.ctx then s.txn else mixTxn s.txn := rfl
@[simp] theorem rebook_inProhibited (before : Controls) :
    (rebook before s).inProhibited =
      prohibited s.params s.synced s.ctx := rfl
@[simp] theorem rebook_injection (before : Controls) : (rebook before s).injection = s.injection := rfl
@[simp] theorem rebook_ctx (before : Controls) : (rebook before s).ctx = s.ctx := rfl
@[simp] theorem rebook_port (before : Controls) : (rebook before s).port = s.port := rfl
@[simp] theorem rebook_inputs (before : Controls) : (rebook before s).inputs = s.inputs := rfl
@[simp] theorem rebook_reports (before : Controls) : (rebook before s).reports = s.reports := rfl
@[simp] theorem rebook_free (before : Controls) : (rebook before s).free = s.free := rfl

/-! ### `contextSync` -/

@[simp] theorem contextSync_params : (contextSync s).params = s.params := rfl
@[simp] theorem contextSync_records : (contextSync s).records = s.records := rfl
@[simp] theorem contextSync_written : (contextSync s).written = s.written := rfl
@[simp] theorem contextSync_synced : (contextSync s).synced = s.written := rfl
@[simp] theorem contextSync_rest1 : (contextSync s).rest1 = s.rest1 := rfl
@[simp] theorem contextSync_rest2 : (contextSync s).rest2 = s.rest2 := rfl
@[simp] theorem contextSync_lastFailed : (contextSync s).lastFailed = s.lastFailed := rfl
@[simp] theorem contextSync_cyc : (contextSync s).cyc = s.cyc := rfl
@[simp] theorem contextSync_txn :
    (contextSync s).txn =
      if s.inProhibited == prohibited s.params s.written s.ctx then s.txn else mixTxn s.txn := rfl
@[simp] theorem contextSync_inProhibited :
    (contextSync s).inProhibited =
      prohibited s.params s.written s.ctx := rfl
@[simp] theorem contextSync_injection : (contextSync s).injection = s.injection := rfl
@[simp] theorem contextSync_ctx : (contextSync s).ctx = s.ctx := rfl
@[simp] theorem contextSync_port : (contextSync s).port = s.port := rfl
@[simp] theorem contextSync_inputs : (contextSync s).inputs = s.inputs := rfl
@[simp] theorem contextSync_reports : (contextSync s).reports = s.reports := rfl
@[simp] theorem contextSync_free : (contextSync s).free = s.free := rfl

/-! ### `propagate` -/

@[simp] theorem propagate_params (f : ControlField) : (propagate f s).params = s.params := rfl
@[simp] theorem propagate_records (f : ControlField) : (propagate f s).records = s.records := rfl
@[simp] theorem propagate_written (f : ControlField) : (propagate f s).written = s.written := rfl
@[simp] theorem propagate_synced (f : ControlField) :
    (propagate f s).synced =
      copyField f s.written s.synced := rfl
@[simp] theorem propagate_rest1 (f : ControlField) : (propagate f s).rest1 = s.rest1 := rfl
@[simp] theorem propagate_rest2 (f : ControlField) : (propagate f s).rest2 = s.rest2 := rfl
@[simp] theorem propagate_lastFailed (f : ControlField) : (propagate f s).lastFailed = s.lastFailed := rfl
@[simp] theorem propagate_cyc (f : ControlField) : (propagate f s).cyc = s.cyc := rfl
@[simp] theorem propagate_txn (f : ControlField) :
    (propagate f s).txn =
      if s.inProhibited == prohibited s.params (copyField f s.written s.synced) s.ctx then s.txn
      else mixTxn s.txn := rfl
@[simp] theorem propagate_inProhibited (f : ControlField) :
    (propagate f s).inProhibited =
      prohibited s.params (copyField f s.written s.synced) s.ctx := rfl
@[simp] theorem propagate_injection (f : ControlField) : (propagate f s).injection = s.injection := rfl
@[simp] theorem propagate_ctx (f : ControlField) : (propagate f s).ctx = s.ctx := rfl
@[simp] theorem propagate_port (f : ControlField) : (propagate f s).port = s.port := rfl
@[simp] theorem propagate_inputs (f : ControlField) : (propagate f s).inputs = s.inputs := rfl
@[simp] theorem propagate_reports (f : ControlField) : (propagate f s).reports = s.reports := rfl
@[simp] theorem propagate_free (f : ControlField) : (propagate f s).free = s.free := rfl

/-! ### `enterContext` -/

@[simp] theorem enterContext_params (c : Context) : (enterContext c s).params = s.params := rfl
@[simp] theorem enterContext_records (c : Context) : (enterContext c s).records = s.records := rfl
@[simp] theorem enterContext_written (c : Context) : (enterContext c s).written = s.written := rfl
@[simp] theorem enterContext_synced (c : Context) : (enterContext c s).synced = s.written := rfl
@[simp] theorem enterContext_rest1 (c : Context) : (enterContext c s).rest1 = s.rest1 := rfl
@[simp] theorem enterContext_rest2 (c : Context) : (enterContext c s).rest2 = s.rest2 := rfl
@[simp] theorem enterContext_lastFailed (c : Context) : (enterContext c s).lastFailed = s.lastFailed := rfl
@[simp] theorem enterContext_cyc (c : Context) : (enterContext c s).cyc = s.cyc := rfl
@[simp] theorem enterContext_txn (c : Context) :
    (enterContext c s).txn =
      if s.inProhibited == prohibited s.params s.written c then s.txn else mixTxn s.txn := rfl
@[simp] theorem enterContext_inProhibited (c : Context) :
    (enterContext c s).inProhibited =
      prohibited s.params s.written c := rfl
@[simp] theorem enterContext_injection (c : Context) : (enterContext c s).injection = s.injection := rfl
@[simp] theorem enterContext_ctx (c : Context) : (enterContext c s).ctx = c := rfl
@[simp] theorem enterContext_port (c : Context) : (enterContext c s).port = s.port := rfl
@[simp] theorem enterContext_inputs (c : Context) : (enterContext c s).inputs = s.inputs := rfl
@[simp] theorem enterContext_reports (c : Context) : (enterContext c s).reports = s.reports := rfl
@[simp] theorem enterContext_free (c : Context) :
    (enterContext c s).free =
      { s.free with choice := s.free.choice + 3 } := rfl

/-! ### `freeze` -/

@[simp] theorem freeze_params : (freeze s).params = s.params := rfl
@[simp] theorem freeze_records : (freeze s).records = s.records := rfl
@[simp] theorem freeze_written : (freeze s).written = (freezeOutcome s).written := rfl
@[simp] theorem freeze_synced : (freeze s).synced = (freezeOutcome s).synced := rfl
@[simp] theorem freeze_rest1 : (freeze s).rest1 = (freezeOutcome s).rest1 := rfl
@[simp] theorem freeze_rest2 : (freeze s).rest2 = (freezeOutcome s).rest2 := rfl
@[simp] theorem freeze_lastFailed : (freeze s).lastFailed = (freezeOutcome s).lastFailed := rfl
@[simp] theorem freeze_cyc : (freeze s).cyc = (freezeOutcome s).cyc := rfl
@[simp] theorem freeze_ccUnknown :
    (freeze s).ccUnknown =
      ((freezeOutcome s).ccUnknown ||
        (!ccEnabled s.params s.synced && ccEnabled s.params (freezeOutcome s).synced) ||
        (s.synced.paused && !(freezeOutcome s).synced.paused) ||
        (s.inProhibited && !prohibited s.params (freezeOutcome s).synced s.ctx)) := rfl
@[simp] theorem freeze_txn :
    (freeze s).txn =
      if s.inProhibited == prohibited s.params (freezeOutcome s).synced s.ctx then (freezeOutcome s).txn
      else mixTxn (freezeOutcome s).txn := rfl
@[simp] theorem freeze_inProhibited :
    (freeze s).inProhibited =
      prohibited s.params (freezeOutcome s).synced s.ctx := rfl
@[simp] theorem freeze_injection : (freeze s).injection = (freezeOutcome s).injection := rfl
@[simp] theorem freeze_ctx : (freeze s).ctx = s.ctx := rfl
@[simp] theorem freeze_port : (freeze s).port = s.port := rfl
@[simp] theorem freeze_inputs : (freeze s).inputs = s.inputs := rfl
@[simp] theorem freeze_reports : (freeze s).reports = s.reports := rfl
@[simp] theorem freeze_free : (freeze s).free = s.free := rfl

/-! ### `invalidateAll` -/

@[simp] theorem invalidateAll_params : (invalidateAll s).params = s.params := rfl
@[simp] theorem invalidateAll_records :
    (invalidateAll s).records =
      invalidated s.params s.free.record 0 s.records := rfl
@[simp] theorem invalidateAll_written : (invalidateAll s).written = s.written := rfl
@[simp] theorem invalidateAll_synced : (invalidateAll s).synced = s.synced := rfl
@[simp] theorem invalidateAll_rest1 : (invalidateAll s).rest1 = s.rest1 := rfl
@[simp] theorem invalidateAll_rest2 : (invalidateAll s).rest2 = s.rest2 := rfl
@[simp] theorem invalidateAll_lastFailed : (invalidateAll s).lastFailed = s.lastFailed := rfl
@[simp] theorem invalidateAll_cyc : (invalidateAll s).cyc = s.cyc := rfl
@[simp] theorem invalidateAll_ccUnknown : (invalidateAll s).ccUnknown = true := rfl
@[simp] theorem invalidateAll_txn : (invalidateAll s).txn = s.txn := rfl
@[simp] theorem invalidateAll_inProhibited : (invalidateAll s).inProhibited = s.inProhibited := rfl
@[simp] theorem invalidateAll_injection : (invalidateAll s).injection = s.injection := rfl
@[simp] theorem invalidateAll_ctx : (invalidateAll s).ctx = s.ctx := rfl
@[simp] theorem invalidateAll_port : (invalidateAll s).port = s.port := rfl
@[simp] theorem invalidateAll_inputs : (invalidateAll s).inputs = s.inputs := rfl
@[simp] theorem invalidateAll_reports : (invalidateAll s).reports = s.reports := rfl
@[simp] theorem invalidateAll_free : (invalidateAll s).free = s.free := rfl

/-! ### `injectRecord` -/

@[simp] theorem injectRecord_params : (injectRecord s).params = s.params := rfl
@[simp] theorem injectRecord_records :
    (injectRecord s).records =
      (s.injection :: s.records).take s.params.numrec := rfl
@[simp] theorem injectRecord_written : (injectRecord s).written = s.written := rfl
@[simp] theorem injectRecord_synced : (injectRecord s).synced = s.synced := rfl
@[simp] theorem injectRecord_rest1 : (injectRecord s).rest1 = s.rest1 := rfl
@[simp] theorem injectRecord_rest2 : (injectRecord s).rest2 = s.rest2 := rfl
@[simp] theorem injectRecord_lastFailed : (injectRecord s).lastFailed = s.lastFailed := rfl
@[simp] theorem injectRecord_cyc : (injectRecord s).cyc = s.cyc := rfl
@[simp] theorem injectRecord_ccUnknown : (injectRecord s).ccUnknown = s.ccUnknown := rfl
@[simp] theorem injectRecord_txn : (injectRecord s).txn = s.txn := rfl
@[simp] theorem injectRecord_inProhibited : (injectRecord s).inProhibited = s.inProhibited := rfl
@[simp] theorem injectRecord_injection : (injectRecord s).injection = s.injection := rfl
@[simp] theorem injectRecord_ctx : (injectRecord s).ctx = s.ctx := rfl
@[simp] theorem injectRecord_port : (injectRecord s).port = s.port := rfl
@[simp] theorem injectRecord_inputs : (injectRecord s).inputs = s.inputs := rfl
@[simp] theorem injectRecord_reports : (injectRecord s).reports = s.reports := rfl
@[simp] theorem injectRecord_free : (injectRecord s).free = s.free := rfl

/-! ### `moveTo` -/

@[simp] theorem moveTo_params (c : Context) : (moveTo c s).params = s.params := rfl
@[simp] theorem moveTo_records (c : Context) : (moveTo c s).records = s.records := rfl
@[simp] theorem moveTo_written (c : Context) : (moveTo c s).written = s.written := rfl
@[simp] theorem moveTo_synced (c : Context) : (moveTo c s).synced = s.synced := rfl
@[simp] theorem moveTo_rest1 (c : Context) : (moveTo c s).rest1 = s.rest1 := rfl
@[simp] theorem moveTo_rest2 (c : Context) : (moveTo c s).rest2 = s.rest2 := rfl
@[simp] theorem moveTo_lastFailed (c : Context) : (moveTo c s).lastFailed = s.lastFailed := rfl
@[simp] theorem moveTo_cyc (c : Context) : (moveTo c s).cyc = s.cyc := rfl
@[simp] theorem moveTo_txn (c : Context) :
    (moveTo c s).txn =
      if s.inProhibited == prohibited s.params s.synced c then s.txn else mixTxn s.txn := rfl
@[simp] theorem moveTo_inProhibited (c : Context) :
    (moveTo c s).inProhibited =
      prohibited s.params s.synced c := rfl
@[simp] theorem moveTo_injection (c : Context) : (moveTo c s).injection = s.injection := rfl
@[simp] theorem moveTo_ctx (c : Context) : (moveTo c s).ctx = c := rfl
@[simp] theorem moveTo_port (c : Context) : (moveTo c s).port = s.port := rfl
@[simp] theorem moveTo_inputs (c : Context) : (moveTo c s).inputs = s.inputs := rfl
@[simp] theorem moveTo_reports (c : Context) : (moveTo c s).reports = s.reports := rfl
@[simp] theorem moveTo_free (c : Context) : (moveTo c s).free = s.free := rfl

/-! ### The context of a port -/

@[simp] theorem portReturn_fromCtx : (portReturn s).fromCtx = s.port.ctx := rfl
@[simp] theorem portReturn_toCtx : (portReturn s).toCtx = s.port.toCtx := rfl
@[simp] theorem portReturn_kind : (portReturn s).kind = s.port.kind := rfl

/-! ### The counters of free values after a read -/

@[simp] theorem spendRead_choice : (spendRead s).choice = s.free.choice := by
  unfold spendRead; split <;> rfl
@[simp] theorem spendRead_record : (spendRead s).record = s.free.record := by
  unfold spendRead; split <;> rfl

end Sys2Proof.Machine
end

