-- ==== Sys2Proof/Laws/Ops.lean ====
section
/-! SUPPORT. What each shared operation can do, said once: the lemmas that later proofs cite instead of
unfolding it. -/

namespace Sys2Proof.Machine

open Sys2Proof

/-! ### Choices, regions, fields -/

@[simp] theorem chooseBool_same (k : Nat) (a : Bool) : chooseBool k a a = a := by
  simp [chooseBool]

theorem chooseBool_cases (k : Nat) (a b : Bool) : chooseBool k a b = a ∨ chooseBool k a b = b := by
  unfold chooseBool
  split
  · exact .inl rfl
  · split
    · exact .inl rfl
    · exact .inr rfl

/-- The source side is judged on the controls before the operation's synchronization or after it. -/
theorem sourceProhibited_cases (c : Context) (s : State) :
    sourceProhibited c s = prohibited s.params s.synced c ∨
      sourceProhibited c s = prohibited s.params s.written c :=
  chooseBool_cases ..

/-- With no write pending, or none that matters, the choice is void. -/
theorem sourceProhibited_of_eq {c : Context} {s : State} {b : Bool}
    (h1 : prohibited s.params s.synced c = b) (h2 : prohibited s.params s.written c = b) :
    sourceProhibited c s = b := by
  simp [sourceProhibited, h1, h2]

/-- An EL3 context in AArch64 state outside Debug state is Prohibited exactly when EL3 does not record. -/
theorem prohibited_el3 {p : Params} {v : Controls} {c : Context} (hel : c.el = .el3)
    (h32 : c.aarch32 = false) (hd : c.debug = false) :
    prohibited p v c = !(p.haveBRBEv1p1 && el3RecEnabled p v) := by
  simp [prohibited, hel, h32, hd]

theorem fitCC_lt (p : Params) (n : Nat) : fitCC p n < 2 ^ p.ccw := Nat.mod_lt _ (Nat.two_pow_pos _)

/-- The three outcomes of the cycle count (spec/41_cycle_counting.md section 2). -/
theorem cycleFields_cases (s : State) :
    ((ccEnabled s.params s.synced = false ∨ s.ccUnknown = true) ∧ cycleFields s = (true, 0)) ∨
    (ccEnabled s.params s.synced = true ∧ s.ccUnknown = false ∧ s.params.ccMax < s.cyc ∧
      cycleFields s = (false, 2 ^ s.params.ccw - 1)) ∨
    (ccEnabled s.params s.synced = true ∧ s.ccUnknown = false ∧ s.cyc ≤ s.params.ccMax ∧
      cycleFields s = (false, encodeCC s.params s.cyc)) := by
  unfold cycleFields
  cases h1 : ccEnabled s.params s.synced <;> cases h2 : s.ccUnknown <;> simp
  by_cases h3 : s.params.ccMax < s.cyc
  · simp [h3]
  · simp [h3]; omega

/-- A generated count fits its field. -/
theorem cycleFields_fit (s : State) : (cycleFields s).2 < 2 ^ s.params.ccw := by
  have hpos := Nat.two_pow_pos s.params.ccw
  obtain ⟨-, h⟩ | ⟨-, -, -, h⟩ | ⟨-, -, -, h⟩ := cycleFields_cases s
  · rw [h]; exact hpos
  · rw [h]; exact Nat.sub_lt hpos Nat.one_pos
  · rw [h]; exact fitCC_lt ..

/-- The misprediction bit as one conjunction (spec/42_mispredicted_branches.md rule R105). -/
theorem branchMPred_eq (p : Params) (v : Controls) (m : Bool) :
    branchMPred p v m = (m && v.brbcrEl1.mpred && (!p.haveEL2 || v.brbcrEl2.mpred)) := by
  unfold branchMPred
  cases p.haveEL2 <;> cases v.brbcrEl2.mpred <;> cases v.brbcrEl1.mpred <;> simp

/-! ### Records -/

@[simp] theorem newRecord_lastFailed (c : Capture) (type : BranchType) (mpred : Bool) (s : State) :
    (newRecord c type mpred s).inf.lastFailed = s.lastFailed := rfl
@[simp] theorem newRecord_valid (c : Capture) (type : BranchType) (mpred : Bool) (s : State) :
    (newRecord c type mpred s).inf.valid = captureValid c := rfl
@[simp] theorem newRecord_type (c : Capture) (type : BranchType) (mpred : Bool) (s : State) :
    (newRecord c type mpred s).inf.type = type := rfl
@[simp] theorem newRecord_mpred (c : Capture) (type : BranchType) (mpred : Bool) (s : State) :
    (newRecord c type mpred s).inf.mpred = mpred := rfl
@[simp] theorem newRecord_ccu (c : Capture) (type : BranchType) (mpred : Bool) (s : State) :
    (newRecord c type mpred s).inf.ccu = (cycleFields s).1 := rfl
@[simp] theorem newRecord_cc (c : Capture) (type : BranchType) (mpred : Bool) (s : State) :
    (newRecord c type mpred s).inf.cc = (cycleFields s).2 := rfl

/-- A generated record, in the terms that claims use. -/
theorem generateRecord_spec (c : Capture) (type : BranchType) (mpred : Bool) (s : State) :
    Generated s (generateRecord c type mpred s) (newRecord c type mpred s) :=
  ⟨rfl, rfl, rfl, rfl, rfl⟩

/-- The count of a generated record, in the terms that claims use. -/
theorem counted_newRecord (c : Capture) (type : BranchType) (mpred : Bool) (s : State) :
    Counted s s.synced s.ccUnknown (newRecord c type mpred s) := by
  obtain ⟨h, e⟩ | ⟨h1, h2, h3, e⟩ | ⟨h1, h2, h3, e⟩ := cycleFields_cases s <;>
    simp only [ccEnabled, Bool.and_eq_true, Bool.and_eq_false_iff, Bool.or_eq_true, Bool.or_eq_false_iff,
      Bool.not_eq_true', Bool.not_eq_false'] at * <;>
    constructor <;> simp only [newRecord_ccu, newRecord_cc, e] <;> grind

/-- A count that is unknown stays so, whatever the move. -/
theorem firstAfterCause_of_ccUnknown {s : State} (h : s.ccUnknown = true) (v : Controls) (c : Context) :
    firstAfterCause s v c = true := by
  simp [firstAfterCause, h]

@[simp] theorem enterContext_ccUnknown (c : Context) (s : State) :
    (enterContext c s).ccUnknown = firstAfterCause s s.written c := rfl
@[simp] theorem moveTo_ccUnknown (c : Context) (s : State) :
    (moveTo c s).ccUnknown = firstAfterCause s s.synced c := rfl
@[simp] theorem contextSync_ccUnknown (s : State) :
    (contextSync s).ccUnknown = firstAfterCause s s.written s.ctx := rfl
@[simp] theorem propagate_ccUnknown (f : ControlField) (s : State) :
    (propagate f s).ccUnknown = firstAfterCause s (copyField f s.written s.synced) s.ctx := rfl

/-- The record step of an exception or exception return does nothing, or it generates the record of its capture,
which takes that it is enabled and not filtered. -/
theorem recordTransition_cases (e : Event) (cap : Option Capture) (en : Bool) (type : BranchType)
    (mpred : Params → Controls → Bool) (s : State) :
    recordTransition e cap en type mpred s = s ∨
      ∃ c, cap = some c ∧ en = true ∧ isFiltered e s = false ∧
        recordTransition e cap en type mpred s = generateRecord c type (mpred s.params s.synced) s := by
  unfold recordTransition
  split
  · exact .inl rfl
  · rename_i c
    cases en <;> cases h : isFiltered e s <;> simp

/-- A record that is not enabled, or is filtered, is withheld and changes nothing. -/
theorem recordTransition_withheld {e : Event} {en : Bool} {s : State} (h : en = false ∨ isFiltered e s = true)
    (cap : Option Capture) (type : BranchType) (mpred : Params → Controls → Bool) :
    recordTransition e cap en type mpred s = s := by
  unfold recordTransition
  split
  · rfl
  · rcases h with h | h <;> simp [h]

@[simp] theorem invalidated_length (p : Params) (k n : Nat) (rs : List Record) :
    (invalidated p k n rs).length = rs.length := by
  induction rs generalizing n with
  | nil => rfl
  | cons r rs ih => simp [invalidated, ih]

/-- After invalidation every record is invalid and fits its fields. -/
theorem invalidated_spec {p : Params} (hp : 1 ≤ p.branchTypes) (k n : Nat) (rs : List Record) :
    ∀ r ∈ invalidated p k n rs, r.inf.valid = 0b00#2 ∧ Record.Fits p r := by
  induction rs generalizing n with
  | nil => simp [invalidated]
  | cons r rs ih =>
    intro x hx
    rcases List.mem_cons.mp hx with rfl | hx
    · exact ⟨rfl, fitCC_lt .., Nat.mod_lt _ hp⟩
    · exact ih (n + 1) x hx

/-! ### The freeze event -/

/-- The freeze event that rule R160 recommends. -/
theorem freezeOutcome_recalled {s : State} (h : s.params.freeze = .recalled) :
    freezeOutcome s =
      { written := { s.written with paused := true }
        synced := { s.synced with paused := true }
        rest1 := s.rest1
        rest2 := s.rest2
        lastFailed := s.lastFailed
        cyc := s.cyc
        ccUnknown := s.ccUnknown
        txn := s.txn
        injection := s.injection } := by
  simp [freezeOutcome, h]

/-- No freeze event makes an unknown count known. -/
theorem freeze_keeps_ccUnknown {s : State} (h : s.ccUnknown = true) : (freeze s).ccUnknown = true := by
  have h' : (freezeOutcome s).ccUnknown = true := by
    unfold freezeOutcome
    split <;> simp [h]
  simp [freeze, h']

/-- A freeze event keeps the transaction's class or changes it to none or mixed. -/
theorem freezeTxn_cases (a b : Txn) : freezeTxn a b = a ∨ freezeTxn a b = .none ∨
    (a ≠ .none ∧ freezeTxn a b = .mixed) := by
  cases a <;> cases b <;> simp [freezeTxn]

theorem freezeOutcome_txn (s : State) : (freezeOutcome s).txn = s.txn ∨ (freezeOutcome s).txn = .none ∨
    (s.txn ≠ .none ∧ (freezeOutcome s).txn = .mixed) := by
  unfold freezeOutcome
  split
  · exact freezeTxn_cases ..
  · exact .inl rfl


theorem racingFreeze_cases (k : Nat) (race b : Bool) (s : State) :
    racingFreeze k race b s = s ∨ (race = true ∧ racingFreeze k race b s = freeze s) := by
  unfold racingFreeze
  split
  · rename_i h
    simp only [Bool.and_eq_true] at h
    exact .inr ⟨h.1.1, rfl⟩
  · exact .inl rfl

@[simp] theorem racingFreeze_no_race (k : Nat) (b : Bool) (s : State) : racingFreeze k false b s = s := rfl

theorem freezeRaces_recalled {s t : State} (h : s.params.freeze = .recalled) : freezeRaces s t = false := by
  simp [freezeRaces, h]

/-! ### Exceptions and exception returns -/

/-- With the freeze event that rule R160 recommends there is no race: the record step follows the
synchronization. -/
theorem transition_recalled {s : State} (h : s.params.freeze = .recalled) (e : Event) (fromCtx toCtx : Context)
    (src tgt : Addr) (type : BranchType) (enabled mpred : Params → Controls → Bool) :
    transition e fromCtx toCtx src tgt type enabled mpred s =
      recordTransition e
        (captureOf (sourceProhibited fromCtx s) (prohibited s.params s.written toCtx) src tgt toCtx.el)
        (enabled s.params s.written) type mpred (enterContext toCtx s) := by
  simp only [transition, freezeRaces_recalled h, racingFreeze_no_race]
  rfl

/-- Everything a transition can do: it enters the context, with or without a racing freeze event (`u`), generates the
record of its capture or nothing (`v`), and a racing freeze event may follow. -/
theorem transition_cases (e : Event) (fromCtx toCtx : Context) (src tgt : Addr) (type : BranchType)
    (enabled mpred : Params → Controls → Bool) (s : State) :
    ∃ u v, (u = enterContext toCtx s ∨ u = freeze (enterContext toCtx s)) ∧
      (v = u ∨ ∃ c,
        captureOf (sourceProhibited fromCtx s) (prohibited s.params s.written toCtx) src tgt toCtx.el = some c ∧
        enabled s.params s.written = true ∧ isFiltered e u = false ∧
        v = generateRecord c type (mpred u.params u.synced) u) ∧
      (transition e fromCtx toCtx src tgt type enabled mpred s = v ∨
        transition e fromCtx toCtx src tgt type enabled mpred s = freeze v) ∧
      (s.params.freeze = .recalled → u = enterContext toCtx s ∧
        transition e fromCtx toCtx src tgt type enabled mpred s = v) := by
  refine ⟨racingFreeze (s.free.choice + 1) (freezeRaces s (enterContext toCtx s)) true (enterContext toCtx s),
    recordTransition e
      (captureOf (sourceProhibited fromCtx s) (prohibited s.params s.written toCtx) src tgt toCtx.el)
      (enabled s.params s.written) type mpred
      (racingFreeze (s.free.choice + 1) (freezeRaces s (enterContext toCtx s)) true (enterContext toCtx s)),
    ?_, recordTransition_cases .., ?_, ?_⟩
  · exact (racingFreeze_cases ..).imp_right And.right
  · exact (racingFreeze_cases ..).imp_right And.right
  · intro h
    refine ⟨by rw [freezeRaces_recalled h, racingFreeze_no_race], ?_⟩
    rw [transition_recalled h, freezeRaces_recalled h, racingFreeze_no_race]

/-- The record of a capture, built in any state, holds the addresses and the level of its valid halves. -/
theorem validHalves_newRecord {sp tp : Bool} {src tgt : Addr} {el : EL} {c : Capture}
    (h : captureOf sp tp src tgt el = some c) (type : BranchType) (mpred : Bool) (s : State) :
    ValidHalves s.params src tgt el (newRecord c type mpred s) := by
  cases sp <;> cases tp <;> cases h <;> constructor <;>
    simp [newRecord, captureRecord, captureValid]

/-! ### Transactions and the `BRB` instructions -/

/-- A failing transaction touches `LASTFAILED`, the transaction and the choice counter alone, and leaves no
transaction in progress. -/
theorem txnFailOrCancel_spec (s : State) :
    ∃ l k, txnFailOrCancel s = { s with lastFailed := l, txn := .none, free := { s.free with choice := k } } ∧
      (l = s.lastFailed ∨ l = true) := by
  unfold txnFailOrCancel
  split
  · rename_i h; exact ⟨s.lastFailed, s.free.choice, by cases s; simp_all, .inl rfl⟩
  · exact ⟨true, s.free.choice, rfl, .inr rfl⟩
  · exact ⟨s.lastFailed, s.free.choice, rfl, .inl rfl⟩
  · exact ⟨_, _, rfl, (chooseBool_cases s.free.choice true s.lastFailed).symm⟩

/-- What the guard of a `BRB` instruction can answer. -/
theorem guardedBrb_cases (op : BrbOp) (c : Context) (eff : State → State) (s : State) :
    (s.txn = .none ∧ brbAccessCheck s.params c op = .allowed ∧ guardedBrb op c eff s = eff s) ∨
    (s.txn = .none ∧ brbAccessCheck s.params c op = .undefined ∧
      guardedBrb op c eff s = report .undefinedInstruction s) ∨
    (s.txn = .none ∧ ∃ el, brbAccessCheck s.params c op = .trap el ∧
      guardedBrb op c eff s = report (.systemInstructionTrap el) s) ∨
    (s.txn ≠ .none ∧ guardedBrb op c eff s = txnFailOrCancel (report .transactionFailureErr s)) := by
  unfold guardedBrb
  by_cases h : s.txn = .none
  · simp only [h, beq_self_eq_true, if_true, true_and]
    cases brbAccessCheck s.params c op <;> simp
  · simp [h]

/-! ### Events -/

theorem takenBranch_cases (b : BranchEvent) (s : State) :
    ((prohibited s.params s.synced b.ctx = true ∨ isFiltered (.takenBranch b) s = true) ∧
      takenBranch b s = s) ∨
    (prohibited s.params s.synced b.ctx = false ∧ isFiltered (.takenBranch b) s = false ∧
      takenBranch b s = generateRecord (.full b.src b.tgt b.ctx.el) b.type
        (branchMPred s.params s.synced b.mispredicted) s) := by
  unfold takenBranch
  cases prohibited s.params s.synced b.ctx <;> cases isFiltered (.takenBranch b) s <;> simp

theorem debugEntry_cases (c : Context) (src : Addr) (type : BranchType) (s : State) :
    debugEntry c src type s = moveTo { s.ctx with debug := true } s ∨
    (prohibited s.params s.synced c = false ∧
      isFiltered (.debugEntry c src type) (moveTo { s.ctx with debug := true } s) = false ∧
      debugEntry c src type s =
        generateRecord (.halfSource src) type debugMPred (moveTo { s.ctx with debug := true } s)) := by
  unfold debugEntry
  cases h : prohibited s.params s.synced c
  · cases hf : isFiltered (.debugEntry c src type) (moveTo { s.ctx with debug := true } s) <;> simp [hf]
  · simp

theorem debugExit_cases (c : Context) (tgt : Addr) (type : BranchType) (s : State) :
    debugExit c tgt type s = moveTo c s ∨
    (prohibited s.params s.synced c = false ∧ isFiltered (.debugExit c tgt type) (moveTo c s) = false ∧
      debugExit c tgt type s = generateRecord (.halfTarget tgt c.el) type debugMPred (moveTo c s)) := by
  unfold debugExit
  cases h : prohibited s.params s.synced c
  · cases hf : isFiltered (.debugExit c tgt type) (moveTo c s) <;> simp [hf]
  · simp

/-- A field write changes what software reads of the controls, `LASTFAILED`, the two opaque remainders and
the injection source; nothing else. -/
theorem writeField_frame (w : RegWrite) (s : State) :
    writeField w s =
      { s with
        written := (writeField w s).written
        lastFailed := (writeField w s).lastFailed
        rest1 := (writeField w s).rest1
        rest2 := (writeField w s).rest2
        injection := (writeField w s).injection } := by
  cases w <;> rfl

/-- A register write that answers a next state reported to the PE that it was not permitted, or had its
effect. -/
theorem sysRegWrite_next {w : RegWrite} {s t : State} (h : sysRegWrite w s = .next t) :
    (∃ r, t = report r s) ∨
    (brbAccessCheck s.params s.ctx (.write (writeReg w)) = .allowed ∧ writeRefusal s.params w = none ∧
      t = writeField w s) := by
  unfold sysRegWrite at h
  split at h
  · cases h; exact .inl ⟨_, rfl⟩
  · cases h; exact .inl ⟨_, rfl⟩
  · rename_i ha
    split at h
    · cases h
    · rename_i hw; cases h; exact .inr ⟨ha, hw, rfl⟩

/-- A register read that answers a next state changes what was handed to the PE and the model's counters of
reads alone. -/
theorem sysRegRead_next {r : Reg} {s t : State} (h : sysRegRead r s = .next t) :
    ∃ x f, t = { s with reports := x :: s.reports, free := f } ∧ f.record = s.free.record ∧
      f.choice = s.free.choice := by
  unfold sysRegRead at h
  split at h
  · cases h; exact ⟨_, s.free, rfl, rfl, rfl⟩
  · cases h; exact ⟨_, s.free, rfl, rfl, rfl⟩
  · split at h
    · split at h
      · cases h; exact ⟨_, _, rfl, spendRead_record s, spendRead_choice s⟩
      · cases h
    · cases h

/-! ### The step -/

/-- What a step that answers a next state did. -/
theorem step_next {s t : State} (h : step s = .next t) :
    (s.inputs = [] ∧ t = s) ∨
    (∃ e rest, s.inputs = .event e :: rest ∧ e.illegal s.params = none ∧
      handle e { s with inputs := rest } = .next t) ∨
    (∃ bytes port rest i tail, s.inputs = .instruction bytes port :: rest ∧
      port.illegal s.params = none ∧ decode bytes = .ok i tail ∧
      exec i { s with inputs := rest, port := port } = .next t) := by
  unfold step nextInput at h
  rcases hi : s.inputs with _ | ⟨i, rest⟩
  · simp only [hi] at h; cases h; exact .inl ⟨rfl, rfl⟩
  · simp only [hi] at h
    cases i with
    | event e =>
      simp only [Input.illegal] at h
      split at h
      · cases h
      · rename_i hl; exact .inr (.inl ⟨e, rest, rfl, hl, h⟩)
    | instruction bytes port =>
      simp only [Input.illegal, fetched] at h
      split at h
      · cases h
      · rename_i hl
        split at h
        · cases h
        · rename_i i tail hd
          exact .inr (.inr ⟨bytes, port, rest, i, tail, rfl, hl, hd, h⟩)

/-- `ERET` completes as the exception return that the PE presents, at every level but EL0. -/
theorem execEret_eq {s : State} (h : s.port.ctx.el ≠ .el0) :
    execEret s = .next (returnFromException (portReturn s) s) := by
  unfold execEret
  split <;> first | contradiction | rfl

/-! ### Address tags -/

/-- `StripTag` is the identity on an address with no tag. -/
theorem stripTag_of_noTag {p : Params} {a : Addr} (h : NoTag p a) : stripTag p a = a := by
  unfold NoTag at h
  unfold stripTag
  cases hp : p.stripTag <;> simp only [hp] at h ⊢
  · simp [h]
  · apply BitVec.eq_of_getLsbD_eq
    intro i hi
    rw [BitVec.getLsbD_signExtend]
    by_cases h1 : i < 56
    · simp [hi, h1]
    · simpa [hi, h1, BitVec.msb_eq_getLsbD_last] using (h i (by omega) hi).symm

/-- The recalled `StripTag`, bit by bit: bit 55 over the top byte, the others as they were. -/
theorem stripTag_recalled_getLsbD {p : Params} {a : Addr} (h : p.stripTag = .recalled) {i : Nat} (hi : i < 64) :
    (stripTag p a).getLsbD i = a.getLsbD (if i < 56 then i else 55) := by
  unfold stripTag
  simp only [h]
  rw [BitVec.getLsbD_signExtend]
  by_cases h1 : i < 56
  · simp [hi, h1]
  · simp [hi, h1, BitVec.msb_eq_getLsbD_last]

/-! ### Words and bytes -/

/-- The four bytes of a word give the word back. -/
theorem wordOfBytes_bytesOfWord (w : Word) :
    wordOfBytes (w.extractLsb' 0 8) (w.extractLsb' 8 8) (w.extractLsb' 16 8) (w.extractLsb' 24 8) = w := by
  apply BitVec.eq_of_getLsbD_eq
  intro i hi
  simp only [wordOfBytes, BitVec.getLsbD_append, BitVec.getLsbD_extractLsb']
  split
  · simp [*]
  · split
    · simp [show i - 8 < 8 by omega, show 8 + (i - 8) = i by omega]
    · split
      · simp [show i - 8 - 8 < 8 by omega, show 16 + (i - 8 - 8) = i by omega]
      · simp [show i - 8 - 8 - 8 < 8 by omega, show 24 + (i - 8 - 8 - 8) = i by omega]

/-- Decoding bytes that begin with a word's decodes the word. -/
theorem decode_bytesOfWord (w : Word) (rest : List Byte) :
    decode (bytesOfWord w ++ rest) =
      match decodeWord w with
      | .inl i => .ok i rest
      | .inr why => .reject why :=
  congrArg (fun x => match decodeWord x with
    | .inl i => Decoded.ok i rest
    | .inr why => .reject why) (wordOfBytes_bytesOfWord w)

end Sys2Proof.Machine
end

