-- ==== Sys2Proof/Laws/PerInstr.lean ====
section
/-! SUPPORT. The family `TableRow`: each instruction's word has the fixed bits of its row of
spec/opcode_table.json, and stands in four bytes. -/

namespace Sys2Proof.Laws.TableRow

open Sys2Proof

/-- The row's mask (spec/opcode_table.json). -/
def mask : Instr → Word
  | .brbIall => 0xFFFFFFFF#32
  | .brbInj => 0xFFFFFFFF#32
  | .isb _ => 0xFFFFF0FF#32
  | .eret => 0xFFFFFFFF#32

/-- The row's match (spec/opcode_table.json). -/
def pattern : Instr → Word
  | .brbIall => 0xD509729F#32
  | .brbInj => 0xD50972BF#32
  | .isb _ => 0xD50330DF#32
  | .eret => 0xD69F03E0#32

/-- The instruction's word has its row's fixed bits, in four bytes. -/
def Statement (i : Instr) : Prop := encodeWord i &&& mask i = pattern i ∧ (encode i).length = 4

theorem brbIall : Statement .brbIall := ⟨by decide, rfl⟩
theorem brbInj : Statement .brbInj := ⟨by decide, rfl⟩
theorem isb (crm : BitVec 4) : Statement (.isb crm) := ⟨by revert crm; decide, rfl⟩
theorem eret : Statement .eret := ⟨by decide, rfl⟩

end Sys2Proof.Laws.TableRow
end

