-- ==== Sys2Proof/Tests/Slice0.lean ====
section
/-! SUPPORT. The model's own tests: words written out from spec/30_encoding.md, the checks of WellFormed,
single steps whose results are those of spec/95_test_vectors.md, and for each obligation with premises a
concrete state that meets them. -/

namespace Sys2Proof.Tests

open Sys2Proof Sys2Proof.Machine

/-! ### Small states -/

/-- The instance of spec/95_test_vectors.md section 2. -/
def pe : Params where
  haveBRBEv1p1 := true
  haveEL2 := true
  haveEL3 := true
  haveAArch32 := true
  haveTME := true
  multithreaded := false
  numrec := 8
  ccsize := 20
  ccw := 14
  branchTypes := 64
  encodeCC := .recalled
  filter := .recalled
  stripTag := .recalled
  access := .recalled
  freeze := .recalled

/-- Non-secure AArch64 execution outside Debug state. -/
def ns (el : EL) : Context := { el := el, secure := false, aarch32 := false, debug := false, el2Enabled := false }

/-- Recording on at EL0 and EL1, every enable and report on, EL3 not recording. -/
def ctl : Controls where
  brbcrEl1 := { e0bre := true, e1bre := true, cc := true, mpred := true, exception := true, ertn := true }
  brbcrEl2 := { e0hbre := true, e2bre := true, cc := true, mpred := true, exception := true, ertn := true }
  paused := false
  mdcrEl3 := { sbrbe := 0b11, e3brec := false, e3brew := false }
  tge := false

/-- The same with EL1 Prohibited. -/
def ctlOff : Controls := { ctl with brbcrEl1.e1bre := false }

/-- A level in a given view of the controls, no write pending, twelve cycles since the last record. -/
def running (el : EL) (v : Controls) : State :=
  { State.resetOn pe (ns el) with
    written := v, synced := v, inProhibited := prohibited pe v (ns el), ccUnknown := false, cyc := 12 }

/-- EL1, recording. -/
def rec1 : State := running .el1 ctl
/-- EL1, Prohibited. -/
def off1 : State := running .el1 ctlOff

/-- A Full record. -/
def full : Record where
  inf := { valid := 0b11, type := 3, el := 0, mpred := true, ccu := false, cc := 0x123, lastFailed := true }
  src := 0xA000
  tgt := 0xB000

/-- EL1, recording, with one Full record and an injection source. -/
def held : State := { rec1 with records := full :: List.replicate 7 zeroRecord, injection := full }

/-- A mispredicted branch of EL1. -/
def branch : BranchEvent := { ctx := ns .el1, src := 0x1000, tgt := 0x2000, type := 3, mispredicted := true }

/-- A return from one level to another, presented beside an `ERET`. -/
def returnTo (a b : EL) : PePort :=
  { ctx := ns a, toCtx := ns b, src := 0x80408, tgt := 0x400C, type := 7, mispredicted := true, kind := .legal }

/-- An exception from one level to another. -/
def exceptionFrom (a b : EL) : ExceptionEvent :=
  { fromCtx := ns a, toCtx := ns b, prefRet := 0x400C, vector := 0x80400, type := 34 }

/-- The state of an outcome. -/
def after : Host.Outcome State Fault Refusal → Option State
  | .next s => some s
  | .fault _ => none
  | .refused _ => none

/-- Some field of the state of an outcome. -/
def see {α : Type} (f : State → α) (o : Host.Outcome State Fault Refusal) : Option α := (after o).map f

/-- Record 0. -/
def rec0 (s : State) : Option Record := s.records[0]?

/-! ### Decoding: the words of rules R57 to R60, bit by bit -/

theorem test_decode_brbIall :
    decodeWord 0b1101_0101_0000_1001_0111_0010_1001_1111#32 = .inl .brbIall := by decide
theorem test_decode_brbInj :
    decodeWord 0b1101_0101_0000_1001_0111_0010_1011_1111#32 = .inl .brbInj := by decide
theorem test_decode_isb :
    decodeWord 0b1101_0101_0000_0011_0011_1111_1101_1111#32 = .inl (.isb 0b1111) := by decide
theorem test_decode_isb_option :
    decodeWord 0b1101_0101_0000_0011_0011_0110_1101_1111#32 = .inl (.isb 0b0110) := by decide
theorem test_decode_eret :
    decodeWord 0b1101_0110_1001_1111_0000_0011_1110_0000#32 = .inl .eret := by decide
/-- Little-endian: the bytes of `BRB IALL` as they stand in memory. -/
theorem test_decode_bytes : decode [0x9F, 0x72, 0x09, 0xD5] = .ok .brbIall [] := by decide
/-- Vector I10. -/
theorem test_decode_unallocated : decodeWord 0xD50972DF#32 = .inr .unallocatedBrbOperation := by decide
theorem test_decode_rt : decodeWord 0xD5097280#32 = .inr .brbWithRtNot31 := by decide
/-- A `NOP` and an `ERETAA` are no rows of the table. -/
theorem test_decode_outside :
    decodeWord 0xD503201F#32 = .inr .notInTable ∧ decodeWord 0xD69F0BFF#32 = .inr .notInTable := by decide
theorem test_decode_truncated : decode [0x9F, 0x72, 0x09] = .reject .truncated := by decide

/-! ### WellFormed: one ill-formed term for each check -/

/-- The instance without EL2. -/
def noEL2 : Params := { pe with haveEL2 := false }
/-- The instance without EL3. -/
def noEL3 : Params := { pe with haveEL3 := false }
/-- The instance without AArch32. -/
def noA32 : Params := { pe with haveAArch32 := false }
/-- The instance without transactions. -/
def noTME : Params := { pe with haveTME := false }

theorem test_wellFormed_every : Instr.brbIall.wellFormed ∧ Instr.brbInj.wellFormed ∧ (Instr.isb 0).wellFormed ∧
    Instr.eret.wellFormed := by decide
theorem test_illegal_el2 : (ns .el2).illegal noEL2 = some .contextNeedsEL2 := by decide
theorem test_illegal_el2Enabled :
    Context.illegal noEL2 { ns .el1 with el2Enabled := true } = some .contextNeedsEL2 := by decide
theorem test_illegal_el3 : (ns .el3).illegal noEL3 = some .contextNeedsEL3 := by decide
theorem test_illegal_aarch32 :
    Context.illegal noA32 { ns .el0 with aarch32 := true } = some .contextNeedsAArch32 := by decide
theorem test_illegal_branchType :
    (Event.takenBranch { branch with type := 64 }).illegal pe = some .unknownBranchType ∧
      (Event.sysRegWrite (.injType 64)).illegal pe = some .unknownBranchType ∧
      PePort.illegal pe { returnTo .el1 .el0 with type := 64 } = some .unknownBranchType := by decide
theorem test_illegal_port :
    PePort.illegal noEL3 (returnTo .el3 .el1) = some .contextNeedsEL3 ∧
      PePort.illegal noEL3 (returnTo .el1 .el3) = some .contextNeedsEL3 := by decide
theorem test_illegal_exceptionToEL0 :
    (Event.exception (exceptionFrom .el1 .el0)).illegal pe = some .exceptionToEL0 := by decide
theorem test_illegal_returnAtEL0 :
    (Event.exceptionReturn (portReturn (running .el0 ctl))).illegal pe = some .exceptionReturnAtEL0 := by decide
theorem test_illegal_txn : Event.txnStart.illegal noTME = some .transactionWithoutTME := by decide
theorem test_illegal_tick : (Event.tick false).illegal pe = some .inactiveSingleThread := by decide
theorem test_params_wf : pe.wf = true ∧ Params.wf { pe with numrec := 0 } = false ∧
    Params.wf { pe with ccsize := 0 } = false ∧ Params.wf { pe with ccw := 0 } = false ∧
    Params.wf { pe with branchTypes := 0 } = false := by decide

/-! ### From reset, each instruction of the table runs as the first one -/

theorem test_first_brbIall : (after (step (State.reset.withFetchWord 32 0xD509729F))).isSome = true := rfl
theorem test_first_brbInj : (after (step (State.reset.withFetchWord 32 0xD50972BF))).isSome = true := rfl
theorem test_first_isb : (after (step (State.reset.withFetchWord 32 0xD5033FDF))).isSome = true := rfl
theorem test_first_eret : (after (step (State.reset.withFetchWord 32 0xD69F03E0))).isSome = true := rfl

/-! ### Instructions (vectors of spec/95_test_vectors.md section 2.9 and its programs) -/

/-- Vector I1. -/
theorem test_brbIall : see (fun t => (t.records.map (·.inf.valid), t.ccUnknown, t.lastFailed)) (exec .brbIall held) =
    some (List.replicate 8 0b00, true, false) := by decide
/-- Vector L6: in a transaction the buffer is not invalidated. -/
theorem test_brbIall_txn :
    see (fun t => (rec0 t, t.txn, t.lastFailed, t.reports)) (exec .brbIall { held with txn := .allNP }) =
      some (some full, .none, true, [.transactionFailureErr]) := by decide
/-- Vectors I4 and I6: the injected record arrives whole, in a Prohibited region too. -/
theorem test_brbInj :
    see (fun t => (rec0 t, t.lastFailed, t.cyc, t.ccUnknown)) (exec .brbInj { off1 with injection := full }) =
      some (some full, false, 12, false) := by decide
/-- Rule R161, the recommended check: undefined when executed at EL0, as the word or as the event, whatever the
current context; nothing pushed. -/
theorem test_brbInj_el0 :
    see (fun t => (t.records, t.reports)) (exec .brbInj { running .el0 ctl with injection := full }) =
      some (List.replicate 8 zeroRecord, [.undefinedInstruction]) ∧
    see (fun t => (t.records, t.reports)) (handle (.brbInj (ns .el0)) { rec1 with injection := full }) =
      some (List.replicate 8 zeroRecord, [.undefinedInstruction]) := by decide

/-! ### Events -/

/-- Vector B1, mispredicted, then B7. -/
theorem test_takenBranch : rec0 (takenBranch branch { rec1 with lastFailed := true }) =
    some { inf := { valid := 0b11, type := 3, el := 1, mpred := true, ccu := false, cc := 12, lastFailed := true }
           src := 0x1000, tgt := 0x2000 } := by decide
/-- Program 2, step 2: from EL0 to Prohibited EL1, a Half-source record. -/
theorem test_exception : (rec0 (takeException (exceptionFrom .el0 .el1) (running .el0 ctlOff))).map
      (fun r => (r.inf.valid, r.src, r.inf.mpred, r.inf.ccu, r.inf.cc)) =
    some (0b10, 0x400C, false, false, 12) := by decide
/-- Vectors C4 to C8. -/
theorem test_cycleFields : [513, 1000, 1048575, 1048576, 5000000].map (fun n => cycleFields { rec1 with cyc := n }) =
    [(false, 0x0200), (false, 0x02F4), (false, 0x0CFF), (false, 0x3FFF), (false, 0x3FFF)] := by decide
/-- Vectors P6, P7, P14 and P16: Secure EL1, and EL0 under either register. A PE without EL3 prohibits nothing by
`SBRBE` (decision D7). -/
theorem test_prohibited :
    (let v := { ctl with mdcrEl3.sbrbe := 0b01 }
     prohibited pe v { ns .el1 with secure := true } = true ∧ prohibited pe v (ns .el1) = false) ∧
    (let v := { ctl with brbcrEl2.e0hbre := false }
     let c := { ns .el0 with el2Enabled := true }
     prohibited pe v c = false ∧ prohibited pe { v with tge := true } c = true) ∧
    prohibited noEL3 { ctl with mdcrEl3.sbrbe := 0b00 } (ns .el1) = false := by decide

/-! ### Witnesses: a state and operands that meet the premises of each obligation -/

theorem inv_held : held.Inv := by
  constructor <;> decide

theorem inv_off : off1.Inv := by
  constructor <;> decide

/-- `s` with one event to come. -/
def given (e : Event) (s : State) : State := { s with inputs := [.event e] }

/-- `s` with one instruction to come. -/
def told (i : Instr) (port : PePort) (s : State) : State := { s with inputs := [.instruction (encode i) port] }

theorem witness_DecodedBytesAreTheEncoding : decode ([0xDF, 0x3F, 0x03, 0xD5] ++ [1]) = .ok (.isb 15) [1] := by decide

theorem witness_UnknownBrbWordsAreRefusedByName :
    ((3#3 : BitVec 3) ≠ 4#3 ∧ (3#3 : BitVec 3) ≠ 5#3) ∧ ((6#3 : BitVec 3) ≠ 4#3 ∧ (6#3 : BitVec 3) ≠ 5#3) ∧
      ((4#3 : BitVec 3) = 4#3 ∧ (30#5 : BitVec 5) ≠ 31#5) ∧ (5#3 : BitVec 3) = 5#3 ∧ (0#5 : BitVec 5) ≠ 31#5 := by decide

theorem witness_StepExecutesThePresentedInstruction :
    (told .eret (returnTo .el1 .el0) off1).inputs = .instruction (encode .eret) (returnTo .el1 .el0) :: [] ∧
      (returnTo .el1 .el0).illegal off1.params = none ∧ decode (encode .eret) = .ok .eret [] := by decide

theorem witness_StepHandlesTheDeliveredEvent : (given (.tick true) held).inputs = .event (.tick true) :: [] ∧
    (Event.tick true).illegal held.params = none ∧ held.inputs = [] := by decide

/-- The premise of each clause, on a PE without the level, the Execution state or the extension it names. -/
theorem witness_StepRefusesWhatIsNeverDelivered :
    (exceptionFrom .el1 .el0).toCtx.el = .el0 ∧ (portReturn (running .el0 ctl)).fromCtx.el = .el0 ∧
      noTME.haveTME = false ∧
      (given .txnStart { held with params := noTME }).inputs = .event .txnStart :: [] ∧
      (eventContexts (.takenBranch { branch with ctx := ns .el3 }) = [ns .el3] ∧
        (ns .el3).el = .el3 ∧ noEL3.haveEL3 = false) ∧
      (eventTypes (.debugEntry (ns .el1) 0 64) = [64] ∧ pe.branchTypes ≤ 64) ∧
      (noEL2.haveEL2 = false ∧ (ns .el2).el = .el2) ∧ (noA32.haveAArch32 = false ∧
        { ns .el0 with aarch32 := true }.aarch32 = true) ∧
      (given (.sysRegWrite (.injType 64)) held).inputs = .event (.sysRegWrite (.injType 64)) :: [] := by decide

/-- Bytes that begin no encoding: three bytes, and the bytes of a `NOP`. -/
theorem witness_StepRefusesWhatIsNeverDelivered_bytes :
    (∀ i tail, ([0x9F, 0x72, 0x09] : List Byte) ≠ encode i ++ tail) ∧
      (∀ i tail, bytesOfWord 0xD503201F#32 ++ [] ≠ encode i ++ tail) ∧ inBrbGroup 0xD503201F#32 = false ∧
      (returnTo .el1 .el1).illegal pe = none := by
  have hb : ∀ i, (encode i).head? ≠ some 0x1F := by
    intro i
    cases i
    · decide
    · decide
    · rename_i c; revert c; decide
    · decide
  refine ⟨?_, ?_, by decide, by decide⟩
  · intro i tail h
    have := congrArg List.length h
    simp [encode, bytesOfWord] at this
  · intro i tail h
    exact hb i (congrArg List.head? h).symm

theorem witness_StepKeepsTheInvariant :
    ∃ t, (given (.takenBranch branch) held).Inv ∧ step (given (.takenBranch branch) held) = .next t :=
  ⟨_, by constructor <;> decide, rfl⟩

theorem witness_ResetMeetsTheInvariant : pe.wf = true ∧ (ns .el3).illegal pe = none := by decide

theorem witness_NoStepChangesTheParameters : ∃ t, step (given .freeze held) = .next t := ⟨_, rfl⟩

theorem witness_OnlyTheseInputsChangeTheBuffer :
    ∃ t, step (given (.takenBranch branch) held) = .next t ∧ t.records ≠ held.records :=
  ⟨_, rfl, by decide⟩

theorem witness_AStepPushesOneRecordOrInvalidatesAll :
    ∃ t, step (told .brbIall (returnTo .el1 .el1) held) = .next t ∧ t.records.length = 8 := ⟨_, rfl, by decide⟩

theorem witness_QuiescenceIsKept : ∃ t, Quiescent (given .freeze held) ∧ held.params.freeze = .recalled ∧
    (∀ w rest, (given .freeze held).inputs ≠ .event (.sysRegWrite w) :: rest) ∧
    step (given .freeze held) = .next t :=
  ⟨_, rfl, rfl, by simp [given], rfl⟩

theorem witness_ARegionChangeMixesTheTransaction :
    ∃ s t, step s = .next t ∧ s.txn ≠ .none ∧ t.txn ≠ .none ∧ s.inProhibited ≠ t.inProhibited :=
  ⟨given .contextSync { rec1 with written := ctlOff, txn := .allNP }, _, rfl, by decide, by decide, by decide⟩

theorem witness_BrbIallInvalidatesEveryRecord :
    held.txn = .none ∧ brbAccessCheck held.params (ns .el1) .brbIall = .allowed ∧ held.port.ctx = ns .el1 := by
  decide

theorem witness_AfterBrbIallNothingIsObservable :
    off1.txn = .none ∧ brbAccessCheck off1.params (ns .el1) .brbIall = .allowed ∧ off1.port.ctx = ns .el1 := by
  decide

/-- Both parts, and the second one with a step that leaves the buffer, with each `BRB` instruction (vector C26: the
injected record has its own count), and with a step that generates a record. -/
theorem witness_FirstRecordAfterBrbIallHasUnknownCount :
    (held.txn = .none ∧ brbAccessCheck held.params (ns .el1) .brbIall = .allowed ∧ held.port.ctx = ns .el1) ∧
      (invalidateAll held).ccUnknown = true ∧
      see (fun t => t.records = (invalidateAll held).records) (step (given (.tick true) (invalidateAll held))) =
        some True ∧
      see (fun t => (rec0 t, t.ccUnknown)) (step (given (.brbInj (ns .el1)) (invalidateAll held))) =
        some (some full, true) ∧
      see (·.ccUnknown) (step (told .brbIall (returnTo .el1 .el1) (invalidateAll held))) = some true ∧
      see (fun t => (t.free.record, t.ccUnknown)) (step (given (.takenBranch branch) (invalidateAll held))) =
        some (1, false) :=
  ⟨by decide, rfl, congrArg some (eq_true rfl), by decide, by decide, by decide⟩

theorem witness_DeliversBrb : DeliversBrb (given (.brbInj (ns .el1)) held) .brbInj ∧
    DeliversBrb (told .brbIall (returnTo .el1 .el1) held) .brbIall ∧
    ¬ DeliversBrb (given (.takenBranch branch) held) .brbInj :=
  ⟨.inl ⟨_, _, .inr ⟨rfl, rfl⟩⟩, .inr ⟨_, _, _, [], rfl, by decide⟩, by simp [DeliversBrb, given]⟩

theorem witness_BrbInjPushesTheInjectionSource :
    (held.txn = .none ∧ brbAccessCheck held.params (ns .el1) .brbInj = .allowed ∧ 1 ≤ held.params.numrec) ∧
      held.port.ctx = ns .el1 ∧ 6 + 1 < held.params.numrec := by decide

theorem witness_BrbInTransactionalStateFailsTheTransaction :
    { held with txn := .allNP }.txn = .allNP ∧ { held with txn := .allP }.txn = .allP ∧
      { held with txn := .mixed }.txn = .mixed ∧ Txn.mixed ≠ .none := by decide

theorem witness_BrbFollowsTheAccessCheck : held.txn = .none ∧ held.port.ctx = ns .el1 := by decide

theorem witness_IsbWithNoPendingWriteChangesNothing : held.Inv ∧ Quiescent held := ⟨inv_held, rfl⟩

theorem witness_IsbOpensTheRegionForTheNextBranch :
    let s := { off1 with written := ctl }
    s.params.filter = .recalled ∧ branch.ctx = s.ctx ∧ s.inProhibited = true ∧
      prohibited s.params s.written s.ctx = false ∧ s.written.paused = false := by decide

/-- Each level, then each kind of return. -/
theorem witness_EretCompletesAboveEL0 :
    (rec1.port.ctx.el ≠ .el0 ∧ (running .el2 ctl).port.ctx.el ≠ .el0 ∧ (running .el3 ctl).port.ctx.el ≠ .el0) ∧
      [ReturnKind.legal, .legalSetsIL, .illegal].map (fun k =>
        see (·.ctx) (exec .eret { rec1 with port := { returnTo .el1 .el0 with kind := k } })) =
      [some (ns .el0), some (ns .el0), some (ns .el1)] := by
  decide

/-- The premises with the `ERET` presented, then the two regions of each of the four clauses, then a return withheld by
its enable, by `PAUSED` and by an open filter. -/
theorem witness_EretRecordsByItsRegions :
    let ok := fun s : State => let r := portReturn s
      r.fromCtx.el ≠ .el0 ∧ s.params.freeze = .recalled ∧ s.params.filter = .recalled ∧
        s.written.paused = false ∧ returnEnabled s.params s.written r.fromCtx.el = true
    let regions := fun s : State => (sourceProhibited s.port.ctx s, see (·.inProhibited) (exec .eret s))
    let pp := { off1 with port := returnTo .el1 .el1 }
    let pn := { off1 with port := returnTo .el1 .el0 }
    let np := { rec1 with port := returnTo .el1 .el3 }
    let nn := { rec1 with port := returnTo .el1 .el0 }
    (ok pp ∧ ok pn ∧ ok np ∧ ok nn) ∧ regions pp = (true, some true) ∧ regions pn = (true, some false) ∧
      regions np = (false, some true) ∧ regions nn = (false, some false) ∧
      returnEnabled pe { ctl with brbcrEl1.ertn := false } .el1 = false ∧ (freeze rec1).written.paused = true ∧
      { pe with filter := .unspecified }.filter = .unspecified := by decide

theorem witness_ReturnBetweenProhibitedRegionsIsNotRecorded :
    let s := { off1 with port := returnTo .el1 .el1 }
    let r := portReturn s
    r.fromCtx.el ≠ .el0 ∧ prohibited s.params s.synced r.fromCtx = true ∧
      prohibited s.params s.written r.fromCtx = true ∧ prohibited s.params s.written (loadedCtx r) = true := by
  decide

/-- A recorded return from each of EL1, EL2 and EL3, and the refused one at EL0. -/
theorem witness_ReturnIsRecordedOnlyIfItsLevelEnablesIt :
    let recorded := fun s : State => see (fun t => t.records ≠ s.records) (exec .eret s)
    (running .el0 ctl).port.ctx.el = .el0 ∧ recorded rec1 = some True ∧ recorded (running .el2 ctl) = some True ∧
      recorded (running .el3 { ctl with mdcrEl3.e3brec := true }) = some True := by
  refine ⟨rfl, ?_, ?_, ?_⟩ <;>
    exact congrArg some (eq_true fun h => absurd (congrArg (fun l => l.map (·.inf.valid)) h) (by decide))

theorem witness_DisabledEretGeneratesNothing :
    let s := running .el3 ctl
    let r := portReturn s
    r.fromCtx.el ≠ .el0 ∧ returnEnabled s.params s.written r.fromCtx.el = false ∧ s.params.freeze = .recalled := by
  decide

theorem witness_IllegalReturnStaysInItsContext :
    let s := { rec1 with port := { returnTo .el1 .el3 with kind := .illegal } }
    (portReturn s).fromCtx.el ≠ .el0 ∧ (portReturn s).kind = .illegal ∧ s.synced = s.written ∧
      see (fun t => (rec0 t).map (·.inf.valid)) (exec .eret s) = some (some 0b11) := by decide

theorem witness_EretAtEL0IsRefused : (running .el0 ctl).port.ctx.el = .el0 := by decide

/-- EL3 recording, with EL1 Prohibited behind it. -/
def rec3 : State := { running .el3 { ctlOff with mdcrEl3.e3brew := true } with port := returnTo .el3 .el1 }

theorem witness_EretFromEL3IsNeverHalfTarget :
    ∃ t, (let c := (portReturn rec3).fromCtx
      c.el = .el3 ∧ c.aarch32 = false ∧ c.debug = false) ∧ Quiescent rec3 ∧
      exec .eret rec3 = .next t ∧ t.records ≠ rec3.records :=
  ⟨_, by decide, rfl, rfl, fun h => absurd (congrArg (fun l => l.map (·.inf.valid)) h) (by decide)⟩

theorem witness_LeavingAProhibitedRegionHidesTheCount :
    ∃ s t, Quiescent s ∧ s.inProhibited = true ∧ prohibited s.params s.synced (portReturn s).fromCtx = true ∧
      exec .eret s = .next t ∧ t.records ≠ s.records :=
  ⟨{ off1 with port := returnTo .el1 .el0 }, _, rfl, by decide, by decide, rfl,
    fun h => absurd (congrArg (fun l => l.map (·.inf.valid)) h) (by decide)⟩

/-- The premises, then the two regions of each of the four clauses, then an exception withheld by its enable. -/
theorem witness_ExceptionRecordsByItsRegions :
    let ok := fun (e : ExceptionEvent) (s : State) => s.params.filter = .recalled ∧ s.params.freeze = .recalled ∧
      s.written.paused = false ∧ exceptionEnabled s.params s.written e.toCtx.el = true
    let regions := fun (e : ExceptionEvent) (s : State) =>
      (sourceProhibited e.fromCtx s, see (·.inProhibited) (handle (.exception e) s))
    let up := exceptionFrom .el1 .el2
    let same := exceptionFrom .el1 .el1
    let enter := exceptionFrom .el0 .el1
    (ok same off1 ∧ ok up off1 ∧ ok enter off1 ∧ ok same rec1) ∧ regions same off1 = (true, some true) ∧
      regions up off1 = (true, some false) ∧ regions enter (running .el0 ctlOff) = (false, some true) ∧
      regions same rec1 = (false, some false) ∧
      exceptionEnabled pe { ctl with brbcrEl1.exception := false } .el1 = false := by decide

theorem witness_ExceptionBetweenProhibitedRegionsIsNotRecorded :
    let e := exceptionFrom .el1 .el1
    prohibited off1.params off1.synced e.fromCtx = true ∧ prohibited off1.params off1.written e.fromCtx = true ∧
      prohibited off1.params off1.written e.toCtx = true := by decide

/-- A recorded exception to each of EL1, EL2 and EL3. -/
theorem witness_ExceptionIsRecordedOnlyIfItsTargetEnablesIt :
    let recorded := fun (el : EL) (s : State) =>
      see (fun t => t.records ≠ s.records) (handle (.exception (exceptionFrom .el1 el)) s)
    recorded .el1 rec1 = some True ∧ recorded .el2 rec1 = some True ∧
      recorded .el3 (running .el1 { ctl with mdcrEl3.e3brew := true }) = some True := by
  refine ⟨?_, ?_, ?_⟩ <;>
    exact congrArg some (eq_true fun h => absurd (congrArg (fun l => l.map (·.inf.valid)) h) (by decide))

theorem witness_DisabledExceptionGeneratesNothing :
    exceptionEnabled rec1.params rec1.written (exceptionFrom .el1 .el3).toCtx.el = false ∧
      rec1.params.freeze = .recalled := by decide

theorem witness_ExceptionToEL3IsNeverHalfSource :
    ∃ s t, (let e := exceptionFrom .el1 .el3
      e.toCtx.el = .el3 ∧ e.toCtx.aarch32 = false ∧ e.toCtx.debug = false ∧ handle (.exception e) s = .next t) ∧
      t.records ≠ s.records :=
  ⟨running .el1 { ctl with mdcrEl3.e3brew := true }, _, ⟨rfl, rfl, rfl, rfl⟩,
    fun h => absurd (congrArg (fun l => l.map (·.inf.valid)) h) (by decide)⟩

theorem witness_DebugEntryIsHalfSourceOrNothing :
    prohibited off1.params off1.synced (ns .el1) = true ∧ prohibited rec1.params rec1.synced (ns .el1) = false ∧
      rec1.params.filter = .recalled ∧ rec1.synced.paused = false ∧ (freeze rec1).synced.paused = true := by decide

theorem witness_DebugExitIsHalfTargetOrNothing :
    let s := { rec1 with ctx := { ns .el1 with debug := true }, inProhibited := true }
    prohibited s.params s.synced (ns .el1) = false ∧ prohibited s.params s.synced (ns .el3) = true ∧
      s.params.filter = .recalled ∧ s.synced.paused = false ∧ s.inProhibited = true := by decide

theorem witness_TakenBranchPushesAFullRecord : (prohibited rec1.params rec1.synced branch.ctx = false ∧
    rec1.params.filter = .recalled ∧ rec1.synced.paused = false) ∧ rec1.params.stripTag = .recalled ∧
    ∀ i, 56 ≤ i → i < 64 → branch.tgt.getLsbD i = branch.tgt.getLsbD 55 :=
  ⟨by decide, by decide, fun i h1 h2 => by
    have : ∀ j < 8, branch.tgt.getLsbD (56 + j) = branch.tgt.getLsbD 55 := by decide
    simpa [show 56 + (i - 56) = i by omega] using this (i - 56) (by omega)⟩

/-- GK12: the top byte of a tagged target becomes copies of bit 55. -/
theorem test_stripTag : stripTag pe 0x5A00000000002000 = 0x2000 ∧
    stripTag pe 0x5A80000000002000 = 0xFF80000000002000 := by decide

theorem witness_SuppressedBranchChangesNothing :
    prohibited off1.params off1.synced branch.ctx = true ∧ (freeze rec1).synced.paused = true := by decide

/-- The premise, then each clause, the last two at the bound of the counter. -/
theorem witness_CycleCountIsUnknownSaturatedOrEncoded :
    (∃ t, handle (.takenBranch branch) rec1 = .next t ∧ t ≠ rec1) ∧
      (rec1.synced.brbcrEl1.cc = true ∧ rec1.synced.brbcrEl2.cc = true ∧ rec1.ccUnknown = false) ∧
      (pe.haveEL2 = true ∧ { ctl with brbcrEl2.cc := false }.brbcrEl2.cc = false) ∧
      pe.ccMax < 1048576 ∧ 1048575 ≤ pe.ccMax :=
  ⟨⟨_, rfl, fun h => absurd (congrArg State.cyc h) (by decide)⟩, by decide, by decide, by decide, by decide⟩

theorem witness_EveryGeneratedRecordTakesLastFailed :
    ∃ t u, rec1.params.freeze = .recalled ∧
      (∀ c, Event.takenBranch branch ≠ .brbIall c ∧ Event.takenBranch branch ≠ .brbInj c) ∧
      handle (.takenBranch branch) rec1 = .next t ∧ t.records ≠ rec1.records ∧
      exec .eret rec1 = .next u ∧ u.records ≠ rec1.records :=
  ⟨_, _, rfl, fun _ => ⟨nofun, nofun⟩, rfl, by decide, rfl, by decide⟩

theorem witness_PausedUnitGeneratesNoRecord :
    ∃ t u v w, (freeze rec1).params.freeze = .recalled ∧ (freeze rec1).synced.paused = true ∧
      (freeze rec1).written.paused = true ∧ exec .eret (freeze rec1) = .next t ∧
      handle (.takenBranch branch) (freeze rec1) = .next (freeze rec1) ∧
      handle (.exception (exceptionFrom .el1 .el1)) (freeze rec1) = .next u ∧
      handle (.debugEntry (ns .el1) 0 1) (freeze rec1) = .next v ∧
      handle (.debugExit (ns .el1) 0 1) (freeze rec1) = .next w :=
  ⟨_, _, _, _, rfl, rfl, rfl, rfl, rfl, rfl, rfl, rfl⟩

theorem witness_TheCounterCountsActiveCycles : (given (.tick false) rec1).params.multithreaded = false ∧
    (given (.tick false) rec1).inputs = .event (.tick false) :: [] := by decide

/-- A context for each clause, on a PE with EL3. -/
theorem witness_ProhibitedRegionsByLevel :
    pe.haveEL3 = true ∧ (ns .el3).aarch32 = false ∧ (ns .el3).debug = false ∧ (ns .el3).el = .el3 ∧
      (ns .el2).el = .el2 ∧ (ns .el1).el = .el1 ∧ (ns .el0).el = .el0 ∧
      { ns .el0 with aarch32 := true }.aarch32 = true ∧ { ns .el1 with debug := true }.debug = true := by decide

theorem witness_AbsentLevelsPlayNoPart :
    (noEL3.haveEL3 = false ∧ (ns .el0).aarch32 = false ∧ (ns .el0).debug = false) ∧ noEL2.haveEL2 = false ∧
      (ns .el0).illegal noEL2 = none ∧ (ns .el0).illegal { noEL2 with haveEL3 := false } = none ∧
      pe.haveEL2 = true := by decide

theorem witness_ProhibitedExecutionLeavesOnlyTheClock :
    ∀ e ∈ [Event.takenBranch branch, .tick true, .takenBranch branch], e = .tick true ∨
      ∃ b, e = .takenBranch b ∧ e.illegal off1.params = none ∧ prohibited off1.params off1.synced b.ctx = true := by
  intro e he
  simp only [List.mem_cons, List.not_mem_nil, or_false] at he
  rcases he with rfl | rfl | rfl
  · exact .inr ⟨branch, rfl, by decide, by decide⟩
  · exact .inl rfl
  · exact .inr ⟨branch, rfl, by decide, by decide⟩

theorem witness_ExceptionHidesTheProhibitedSide :
    (off1.params.filter = .recalled ∧ prohibited off1.params off1.synced (exceptionFrom .el1 .el2).fromCtx = true ∧
      prohibited off1.params off1.written (exceptionFrom .el1 .el2).fromCtx = true) ∧
    prohibited off1.params off1.written (exceptionFrom .el0 .el1).toCtx = true ∧
    (let s := { off1 with port := returnTo .el1 .el0 }
     s.params.freeze = .recalled ∧ s.port.ctx.el ≠ .el0 ∧
       prohibited s.params s.synced (portReturn s).fromCtx = true ∧
       prohibited s.params s.written (portReturn s).fromCtx = true) ∧
    (let s := { running .el2 ctlOff with port := returnTo .el2 .el1 }
     s.params.freeze = .recalled ∧ s.port.ctx.el ≠ .el0 ∧
       prohibited s.params s.written (loadedCtx (portReturn s)) = true) := by decide

/-- Each class of transaction. -/
theorem witness_TransactionFailureSetsLastFailed :
    (txnStart rec1).txn = .allNP ∧ (txnStart off1).txn = .allP ∧
      (contextSync { txnStart rec1 with written := ctlOff }).txn = .mixed ∧ rec1.txn = .none := by decide

theorem witness_TransactionStartTakesItsRegion :
    off1.txn = .none ∧ off1.inProhibited = true ∧ rec1.txn = .none ∧ rec1.inProhibited = false ∧
      (txnStart rec1).txn ≠ .none := by decide

/-- A write of each clause. -/
theorem witness_RegisterWriteWaitsForSynchronization :
    (∀ w ∈ [RegWrite.sbrbe 0, .lastFailed true, .rest1 5, .rest2 5, .injSrc 0x1000],
      brbAccessCheck rec1.params rec1.ctx (.write (writeReg w)) = .allowed ∧ writeRefusal rec1.params w = none) ∧
    writeReg (.injSrc 0x1000) = .injection ∧ writeReg (.sbrbe 0) ≠ .injection := by decide

theorem witness_SoftwareReadsBackItsWrites : rec1.params.access = .recalled ∧ rec1.ctx.el ≠ .el0 ∧
    rec1.params.haveEL2 = true ∧ rec1.params.haveEL3 = true ∧ 0x3FFF < 2 ^ rec1.params.ccw := by decide

/-- A record of each `VALID`, every read allowed. -/
theorem witness_ReadingAFullRecordReturnsIt :
    let s := { held with
      records := [full, { full with inf.valid := 0b10 }, { full with inf.valid := 0b01 }, zeroRecord] }
    (∀ n < 4, ∀ x ∈ [Reg.brbinf n, .brbsrc n, .brbtgt n], brbAccessCheck s.params s.ctx (.read x) = .allowed) ∧
      [0, 1, 2, 3].map (fun n => (s.records[n]?).map (·.inf.valid)) =
        [some 0b11, some 0b10, some 0b01, some 0b00] := by decide

theorem witness_ReadsHaveNoSideEffect : ∃ t, handle (.sysRegRead .brbcrEl1) held = .next t := ⟨_, rfl⟩

/-- An access of each clause, all of them allowed, the absent registers on a PE without the level. -/
theorem witness_ReadOnlyAndAbsentRecordsAreRefused :
    (held.records.length ≤ 8 ∧ ∀ x ∈ [Reg.brbinf 8, .brbsrc 8, .brbtgt 8, .injection],
      brbAccessCheck held.params held.ctx (.read x) = .allowed) ∧
    brbAccessCheck held.params held.ctx (.write (writeReg (.readOnly .brbidr0El1))) = .allowed ∧
    (let s := { held with params := noEL2 }
     s.params.haveEL2 = false ∧ writeReg (.e2bre true) = .brbcrEl2 ∧ writeReg (.tge true) = .hcrEl2 ∧
       ∀ x ∈ [Reg.brbcrEl2, .hcrEl2], brbAccessCheck s.params s.ctx (.read x) = .allowed ∧
         brbAccessCheck s.params s.ctx (.write x) = .allowed) ∧
    (let s := { held with params := noEL3 }
     s.params.haveEL3 = false ∧ writeReg (.sbrbe 0) = .mdcrEl3 ∧
       brbAccessCheck s.params s.ctx (.read .mdcrEl3) = .allowed ∧
       brbAccessCheck s.params s.ctx (.write .mdcrEl3) = .allowed) := by decide

/-- EL0, then a level above it. -/
theorem witness_EL0ReachesNothing :
    (let s := running .el0 ctl
     s.params.access = .recalled ∧ s.ctx.el = .el0 ∧ s.txn = .none ∧ s.port.ctx = ns .el0 ∧ (ns .el0).el = .el0) ∧
    held.params.access = .recalled ∧ (ns .el1).el ≠ .el0 ∧ held.txn = .none ∧ held.port.ctx = ns .el1 := by
  decide

theorem witness_PropagatingEveryFieldSynchronizes :
    ∀ f, f ∈ [ControlField.tge, .e3brew, .e3brec, .sbrbe, .paused, .ertn2, .exception2, .mpred2, .cc2, .e2bre,
      .e0hbre, .ertn1, .exception1, .mpred1, .cc1, .e1bre, .e0bre] := by
  intro f; cases f <;> decide

theorem witness_FreezeGeneratesNoRecord : rec1.params.freeze = .recalled ∧ (invalidateAll rec1).ccUnknown = true := by
  decide

end Sys2Proof.Tests
end

