-- ==== Sys2Proof/Proofs/Regions.lean ====
section
/-! What the region function says at each Exception level, and the obligations on it
(spec/43_prohibited_regions.md). -/

namespace Sys2Proof.Machine

open Sys2Proof

section
variable {p : Params} {v : Controls} {c : Context}

/-! ### The conditions a region is made of -/

theorem secProhibit_iff :
    secProhibit p v c = true ↔ p.haveEL3 = true ∧
      (v.mdcrEl3.sbrbe = 0b00#2 ∨ (v.mdcrEl3.sbrbe = 0b01#2 ∧ c.secure = true)) := by
  simp [secProhibit]

theorem el3RecEnabled_eq_false_iff :
    el3RecEnabled p v = false ↔
      p.haveBRBEv1p1 = false ∨ p.haveEL3 = false ∨ v.mdcrEl3.e3brec = v.mdcrEl3.e3brew := by
  simp [el3RecEnabled, imp_iff_not_or, or_assoc]

theorem el0UnderEl2_iff : el0UnderEl2 v c = true ↔ c.el2Enabled = true ∧ v.tge = true := by
  simp [el0UnderEl2]

theorem el0UnderEl2_eq_false_iff : el0UnderEl2 v c = false ↔ c.el2Enabled = false ∨ v.tge = false := by
  simp [el0UnderEl2, imp_iff_not_or]

/-! ### Whatever the level: AArch32 and Debug state (rules R109 and R110) -/

theorem prohibited_of_aarch32 (h32 : c.aarch32 = true) : prohibited p v c = true := by
  simp [prohibited, h32]

theorem prohibited_of_debug (hd : c.debug = true) : prohibited p v c = true := by
  simp [prohibited, hd]

/-! ### Level by level, in AArch64 outside Debug state (rules R112 to R115) -/

theorem prohibited_el3_iff (h32 : c.aarch32 = false) (hd : c.debug = false) (hel : c.el = .el3) :
    prohibited p v c = true ↔ p.haveBRBEv1p1 = false ∨ el3RecEnabled p v = false := by
  simp [prohibited_el3 hel h32 hd]

theorem prohibited_el2_iff (h32 : c.aarch32 = false) (hd : c.debug = false) (hel : c.el = .el2) :
    prohibited p v c = true ↔ v.brbcrEl2.e2bre = false ∨ secProhibit p v c = true := by
  simp [prohibited, h32, hd, hel]

theorem prohibited_el1_iff (h32 : c.aarch32 = false) (hd : c.debug = false) (hel : c.el = .el1) :
    prohibited p v c = true ↔ v.brbcrEl1.e1bre = false ∨ secProhibit p v c = true := by
  simp [prohibited, h32, hd, hel]

theorem prohibited_el0_iff (h32 : c.aarch32 = false) (hd : c.debug = false) (hel : c.el = .el0) :
    prohibited p v c = true ↔
      (el0UnderEl2 v c = false ∧ v.brbcrEl1.e0bre = false) ∨
      (el0UnderEl2 v c = true ∧ v.brbcrEl2.e0hbre = false) ∨ secProhibit p v c = true := by
  simp [prohibited, h32, hd, hel, or_assoc]

end

/-- Settles O47, level by level: with EL3 present, each region is the one its level's conditions spell out. -/
theorem prohibitedRegionsByLevel : Obligations.ProhibitedRegionsByLevel := by
  intro p v c
  refine ⟨prohibited_of_aarch32, prohibited_of_debug, fun hel3 h32 hd => ⟨?el3, ?el2, ?el1, ?el0⟩⟩
  case el3 =>
    intro hel
    rw [prohibited_el3_iff h32 hd hel, el3RecEnabled_eq_false_iff]
    simp [hel3]
  case el2 =>
    intro hel
    rw [prohibited_el2_iff h32 hd hel, secProhibit_iff]
    simp [hel3]
  case el1 =>
    intro hel
    rw [prohibited_el1_iff h32 hd hel, secProhibit_iff]
    simp [hel3]
  case el0 =>
    intro hel
    rw [prohibited_el0_iff h32 hd hel, el0UnderEl2_eq_false_iff, el0UnderEl2_iff, secProhibit_iff]
    simp [hel3]

end Sys2Proof.Machine
end

