-- ==== Sys2Proof/Proofs/ExceptionRecords.lean ====
section
/-! When an exception or exception return changes the record buffer, what its target's enable says at each
Exception level, and the obligations on exceptions (spec/44_exception_records.md). -/

namespace Sys2Proof.Machine

open Sys2Proof

/-! ### What a change of the buffer takes -/

/-- A transition that changes the buffer generates a record: its sides give a capture and it is enabled on the new
controls. A racing freeze event, before the record or after it, pushes none (rule R160). -/
theorem transition_records_changed {e : Event} {fromCtx toCtx : Context} {src tgt : Addr} {type : BranchType}
    {enabled mpred : Params → Controls → Bool} {s : State}
    (h : (transition e fromCtx toCtx src tgt type enabled mpred s).records ≠ s.records) :
    (∃ c, captureOf (sourceProhibited fromCtx s) (prohibited s.params s.written toCtx) src tgt toCtx.el = some c) ∧
      enabled s.params s.written = true := by
  obtain ⟨u, v, hu, hv, ht, -⟩ := transition_cases e fromCtx toCtx src tgt type enabled mpred s
  have entered : u.records = s.records := by rcases hu with rfl | rfl <;> simp
  have unfrozen : (transition e fromCtx toCtx src tgt type enabled mpred s).records = v.records := by
    rcases ht with ht | ht <;> simp [ht]
  rcases hv with rfl | ⟨c, hcap, hen, -, -⟩
  · exact absurd (unfrozen.trans entered) h
  · exact ⟨⟨c, hcap⟩, hen⟩

@[simp] theorem captureOf_prohibited_prohibited (src tgt : Addr) (el : EL) :
    captureOf true true src tgt el = none := rfl

/-- Between two Prohibited regions a transition leaves the buffer as it is, if the source is Prohibited in both views
of the controls. -/
theorem transition_records_of_prohibited {fromCtx toCtx : Context} {s : State}
    (hsynced : prohibited s.params s.synced fromCtx = true)
    (hwritten : prohibited s.params s.written fromCtx = true)
    (htarget : prohibited s.params s.written toCtx = true)
    (e : Event) (src tgt : Addr) (type : BranchType) (enabled mpred : Params → Controls → Bool) :
    (transition e fromCtx toCtx src tgt type enabled mpred s).records = s.records := by
  by_contra h
  obtain ⟨⟨c, hcap⟩, -⟩ := transition_records_changed h
  simp [sourceProhibited_of_eq hsynced hwritten, htarget] at hcap

theorem takeException_records_changed {e : ExceptionEvent} {s : State}
    (h : (takeException e s).records ≠ s.records) : exceptionEnabled s.params s.written e.toCtx.el = true :=
  (transition_records_changed h).2

/-! ### The enable of each target level (rule R121) -/

theorem el3RecEnabled_iff {p : Params} {v : Controls} :
    el3RecEnabled p v = true ↔
      p.haveBRBEv1p1 = true ∧ p.haveEL3 = true ∧ v.mdcrEl3.e3brec ≠ v.mdcrEl3.e3brew := by
  simp [el3RecEnabled, and_assoc]

@[simp] theorem exceptionEnabled_el1 (p : Params) (v : Controls) :
    exceptionEnabled p v .el1 = v.brbcrEl1.exception := rfl
@[simp] theorem exceptionEnabled_el2 (p : Params) (v : Controls) :
    exceptionEnabled p v .el2 = v.brbcrEl2.exception := rfl

theorem exceptionEnabled_el3_iff {p : Params} {v : Controls} :
    exceptionEnabled p v .el3 = true ↔
      p.haveBRBEv1p1 = true ∧ p.haveEL3 = true ∧ v.mdcrEl3.e3brec ≠ v.mdcrEl3.e3brew := by
  simp +contextual [exceptionEnabled, el3RecEnabled_iff]

/-! ### The obligations -/

/-- Settles O35: the capture of two Prohibited sides is empty, whichever view the source side is read in. -/
theorem exceptionBetweenProhibitedRegionsIsNotRecorded :
    Obligations.ExceptionBetweenProhibitedRegionsIsNotRecorded :=
  fun e s hsynced hwritten htarget =>
    ⟨takeException e s, rfl, transition_records_of_prohibited hsynced hwritten htarget ..⟩

/-- Settles O36: a changed buffer takes the enable of the target level, which is then read level by level. -/
theorem exceptionIsRecordedOnlyIfItsTargetEnablesIt :
    Obligations.ExceptionIsRecordedOnlyIfItsTargetEnablesIt := by
  intro e s t ht hne
  obtain rfl : takeException e s = t := Host.Outcome.next.inj ht
  have enabled := takeException_records_changed hne
  refine ⟨fun hel => ?el1, fun hel => ?el2, fun hel => ?el3⟩ <;> rw [hel] at enabled
  case el1 => simpa using enabled
  case el2 => simpa using enabled
  case el3 => exact exceptionEnabled_el3_iff.mp enabled

end Sys2Proof.Machine
end

/-! When an exception return is recorded, delivered as the event or executed as `ERET`, what the enable of the level it
is executed at says, and the obligations on both (spec/45_exception_return_records.md). -/

namespace Sys2Proof.Machine

open Sys2Proof

/-! ### `ERET` and the event of an exception return -/

theorem exec_eret_el0 {s : State} (h : s.port.ctx.el = .el0) : exec .eret s = .refused .exceptionReturnAtEL0 := by
  change execEret s = _
  simp [execEret, h]

/-- Above EL0 an `ERET` does what the exception return presented beside it does. -/
theorem exec_eret_of_portReturn {r : ReturnEvent} {s : State} (hel : r.fromCtx.el ≠ .el0) (hr : portReturn s = r) :
    exec .eret s = .next (returnFromException r s) := by
  subst hr
  exact execEret_eq hel

/-- An `ERET` that completes, at EL0 none does, has the effect of the exception return presented. -/
theorem eq_returnFromException_of_exec_eret {s t : State} (h : exec .eret s = .next t) :
    t = returnFromException (portReturn s) s := by
  by_cases hel : s.port.ctx.el = .el0
  · simp [exec_eret_el0 hel] at h
  · exact Host.Outcome.next.inj (h.symm.trans (exec_eret_of_portReturn hel rfl))

/-- Delivered as the event or executed as `ERET`, an exception return that completes has one and the same effect. -/
theorem eq_returnFromException {r : ReturnEvent} {s t : State}
    (h : handle (.exceptionReturn r) s = .next t ∨ (portReturn s = r ∧ exec .eret s = .next t)) :
    t = returnFromException r s := by
  rcases h with delivered | ⟨rfl, executed⟩
  · exact (Host.Outcome.next.inj delivered).symm
  · exact eq_returnFromException_of_exec_eret executed

/-! ### The enable of each source level (rule R133) -/

theorem returnFromException_records_changed {r : ReturnEvent} {s : State}
    (h : (returnFromException r s).records ≠ s.records) : returnEnabled s.params s.written r.fromCtx.el = true :=
  (transition_records_changed h).2

@[simp] theorem returnEnabled_el1 (p : Params) (v : Controls) : returnEnabled p v .el1 = v.brbcrEl1.ertn := rfl
@[simp] theorem returnEnabled_el2 (p : Params) (v : Controls) : returnEnabled p v .el2 = v.brbcrEl2.ertn := rfl

/-- Returns from EL3 and exceptions to EL3 have one enable, that of EL3 recording. -/
theorem returnEnabled_el3 (p : Params) (v : Controls) : returnEnabled p v .el3 = exceptionEnabled p v .el3 := rfl

/-! ### The obligations -/

/-- Settles O27: the capture of two Prohibited sides is empty, whichever view the source side is read in, and `ERET`
does what its event does. -/
theorem returnBetweenProhibitedRegionsIsNotRecorded : Obligations.ReturnBetweenProhibitedRegionsIsNotRecorded :=
  fun r s hel hsynced hwritten htarget =>
    ⟨returnFromException r s, rfl, exec_eret_of_portReturn hel,
      transition_records_of_prohibited hsynced hwritten htarget ..⟩

/-- Settles O28: a changed buffer takes the enable of the level the return is executed at, which is then read level by
level. -/
theorem returnIsRecordedOnlyIfItsLevelEnablesIt : Obligations.ReturnIsRecordedOnlyIfItsLevelEnablesIt := by
  intro r s
  refine ⟨exec_eret_el0, fun t ht hne => ?_⟩
  obtain rfl := eq_returnFromException ht
  have enabled := returnFromException_records_changed hne
  refine ⟨fun hel => ?el1, fun hel => ?el2, fun hel => ?el3⟩ <;> rw [hel] at enabled
  case el1 => simpa using enabled
  case el2 => simpa using enabled
  case el3 => exact exceptionEnabled_el3_iff.mp (returnEnabled_el3 .. ▸ enabled)

end Sys2Proof.Machine

/-! What a failed transaction makes of `LASTFAILED`, class by class, and the obligations on failures, those that a `BRB`
instruction causes among them (spec/46_tme_and_speculation.md). -/

namespace Sys2Proof.Machine

open Sys2Proof

/-! ### `LASTFAILED` after a failure, by the regions the transaction ran in -/

/-- All of it in Non-prohibited regions (rule R145). -/
theorem txnFailOrCancel_lastFailed_of_allNP {s : State} (h : s.txn = .allNP) :
    (txnFailOrCancel s).lastFailed = true := by
  simp [txnFailOrCancel, h]

/-- All of it in Prohibited regions (rule R146). -/
theorem txnFailOrCancel_lastFailed_of_allP {s : State} (h : s.txn = .allP) :
    (txnFailOrCancel s).lastFailed = s.lastFailed := by
  simp [txnFailOrCancel, h]

/-- A failure's whole effect, with `LASTFAILED` by the transaction's class; partly in each region both of the two
possible values remain (rule R147). -/
theorem txnFailOrCancel_by_class (s : State) :
    ∃ l k, txnFailOrCancel s = { s with lastFailed := l, txn := .none, free := { s.free with choice := k } } ∧
      (s.txn = .allNP → l = true) ∧ (s.txn = .allP → l = s.lastFailed) ∧
      (s.txn = .mixed → l = true ∨ l = s.lastFailed) := by
  obtain ⟨l, k, failed, unchanged_or_set⟩ := txnFailOrCancel_spec s
  have lastFailed_eq : (txnFailOrCancel s).lastFailed = l := congrArg State.lastFailed failed
  refine ⟨l, k, failed, fun h => ?allNP, fun h => ?allP, fun _ => unchanged_or_set.symm⟩
  case allNP => exact lastFailed_eq.symm.trans (txnFailOrCancel_lastFailed_of_allNP h)
  case allP => exact lastFailed_eq.symm.trans (txnFailOrCancel_lastFailed_of_allP h)

/-! ### The `BRB` instructions in Transactional state -/

/-- In Transactional state the guard asks neither which instruction it guards nor in which context: it reports the
failure and fails the transaction (rule R151). -/
theorem guardedBrb_of_transactional {s : State} (h : s.txn ≠ .none) (op : BrbOp) (c : Context)
    (effect : State → State) :
    guardedBrb op c effect s = txnFailOrCancel (report .transactionFailureErr s) := by
  simpa [h] using guardedBrb_cases op c effect s

/-! ### The obligations -/

/-- Settles O51, the class of the transaction by class. -/
theorem transactionFailureSetsLastFailed : Obligations.TransactionFailureSetsLastFailed := by
  intro s
  obtain ⟨l, k, failed, byClass⟩ := txnFailOrCancel_by_class s
  exact ⟨l, k, congrArg Host.Outcome.next failed, byClass⟩

/-- Settles O20: the guard gives both instructions, as events and as words, one and the same failure, that of the state
with the report made. -/
theorem brbInTransactionalStateFailsTheTransaction : Obligations.BrbInTransactionalStateFailsTheTransaction := by
  intro c s inTransaction
  have guarded := guardedBrb_of_transactional inTransaction
  obtain ⟨l, k, failed, byClass⟩ := txnFailOrCancel_by_class (report .transactionFailureErr s)
  exact ⟨txnFailOrCancel (report .transactionFailureErr s), l, k,
    congrArg Host.Outcome.next (guarded .brbIall s.port.ctx invalidateAll),
    congrArg Host.Outcome.next (guarded .brbInj s.port.ctx injectRecord),
    congrArg Host.Outcome.next (guarded .brbIall c invalidateAll),
    congrArg Host.Outcome.next (guarded .brbInj c injectRecord), failed, byClass⟩

end Sys2Proof.Machine

/-! The decoder against the encoder, in both directions, and the obligations on encodings (spec/30_encoding.md). -/

namespace Sys2Proof.Machine

open Sys2Proof

/-! ### From instruction to word (rules R57 to R60) -/

theorem decodeWord_encodeWord (i : Instr) : decodeWord (encodeWord i) = .inl i := by
  cases i with
  | brbIall => decide
  | brbInj => decide
  | isb crm => revert crm; decide
  | eret => decide

/-- A word of the `BRB` group is decoded by its `op2` and `Rt` alone. -/
theorem decodeWord_sysWord (op2 : BitVec 3) (rt : BitVec 5) :
    decodeWord (sysWord 1 7 2 op2 rt) = decodeBrb op2 rt := by
  revert op2 rt; decide

/-! ### From word to instruction: a word is its fields, and the decoder fixes each of them but the operand -/

theorem word_eq_sysFields (w : Word) :
    w.extractLsb' 22 10 ++ w.extractLsb' 21 1 ++ w.extractLsb' 19 2 ++ w.extractLsb' 16 3 ++ w.extractLsb' 12 4 ++
      w.extractLsb' 8 4 ++ w.extractLsb' 5 3 ++ w.extractLsb' 0 5 = w := by
  apply BitVec.eq_of_getLsbD_eq
  simp only [BitVec.getLsbD_append, BitVec.getLsbD_extractLsb']
  grind

theorem word_eq_isbFields (w : Word) : w.extractLsb' 12 20 ++ w.extractLsb' 8 4 ++ w.extractLsb' 0 8 = w := by
  apply BitVec.eq_of_getLsbD_eq
  simp only [BitVec.getLsbD_append, BitVec.getLsbD_extractLsb']
  grind

theorem eq_sysWord_of_inBrbGroup {w : Word} (h : inBrbGroup w = true) :
    w = sysWord 1 7 2 (w.extractLsb' 5 3) (w.extractLsb' 0 5) := by
  simp only [inBrbGroup, Bool.and_eq_true, beq_iff_eq] at h
  obtain ⟨⟨⟨⟨⟨hop, hl⟩, hop0⟩, hop1⟩, hcrn⟩, hcrm⟩ := h
  conv_lhs => rw [← word_eq_sysFields w, hop, hl, hop0, hop1, hcrn, hcrm]
  rfl

theorem encodeWord_of_decodeBrb {op2 : BitVec 3} {rt : BitVec 5} {i : Instr} (h : decodeBrb op2 rt = .inl i) :
    encodeWord i = sysWord 1 7 2 op2 rt := by
  unfold decodeBrb at h
  split_ifs at h with iall rt31 inj rt31
  · cases h; rw [beq_iff_eq.mp iall, beq_iff_eq.mp rt31]; rfl
  · cases h; rw [beq_iff_eq.mp inj, beq_iff_eq.mp rt31]; rfl

/-- The mask of `ISB` leaves its two fixed fields as they are (rule R59). -/
theorem eq_encodeWord_isb {w : Word} (h : w &&& 0xFFFFF0FF#32 = 0xD50330DF#32) :
    w = encodeWord (.isb (w.extractLsb' 8 4)) := by
  have high : w.extractLsb' 12 20 = 0b11010101000000110011#20 := by
    rw [← BitVec.and_allOnes (x := w.extractLsb' 12 20)]
    simpa [BitVec.extractLsb'_and] using congrArg (BitVec.extractLsb' 12 20) h
  have low : w.extractLsb' 0 8 = 0b11011111#8 := by
    rw [← BitVec.and_allOnes (x := w.extractLsb' 0 8)]
    simpa [BitVec.extractLsb'_and] using congrArg (BitVec.extractLsb' 0 8) h
  conv_lhs => rw [← word_eq_isbFields w, high, low]
  rfl

theorem eq_encodeWord_of_decodeWord {w : Word} {i : Instr} (h : decodeWord w = .inl i) : w = encodeWord i := by
  unfold decodeWord at h
  split at h
  next group => rw [encodeWord_of_decodeBrb h]; exact eq_sysWord_of_inBrbGroup group
  next =>
    split at h
    next isb => cases h; exact eq_encodeWord_isb (beq_iff_eq.mp isb)
    next =>
      split at h
      next eret => cases h; exact beq_iff_eq.mp eret
      next => cases h

/-! ### Bytes -/

theorem bytesOfWord_wordOfBytes (b0 b1 b2 b3 : Byte) : bytesOfWord (wordOfBytes b0 b1 b2 b3) = [b0, b1, b2, b3] := by
  simp only [bytesOfWord, wordOfBytes, List.cons.injEq, and_true]
  refine ⟨?_, ?_, ?_, ?_⟩ <;> apply BitVec.eq_of_getLsbD_eq <;>
    simp only [BitVec.getLsbD_append, BitVec.getLsbD_extractLsb'] <;> grind

/-- The decoder reads four bytes as one word, and gives back what follows them. -/
theorem decode_eq_ok {bytes : List Byte} {i : Instr} {rest : List Byte} (h : decode bytes = .ok i rest) :
    ∃ w, bytes = bytesOfWord w ++ rest ∧ decodeWord w = .inl i := by
  unfold decode at h
  split at h
  next b0 b1 b2 b3 tail =>
    split at h
    next j hj =>
      cases h
      exact ⟨_, by rw [bytesOfWord_wordOfBytes]; rfl, hj⟩
    next => cases h
  next => cases h

/-! ### The obligations -/

/-- Settles O1: the bytes give the word back, and the word its instruction. -/
theorem decodeOfEncodeIsTheInstruction : Obligations.DecodeOfEncodeIsTheInstruction := by
  intro i rest
  rw [encode, decode_bytesOfWord, decodeWord_encodeWord]

/-- Settles O2: the bytes are those of the word decoded, and the word is the instruction's. -/
theorem decodedBytesAreTheEncoding : Obligations.DecodedBytesAreTheEncoding := by
  intro bytes i rest h
  obtain ⟨w, rfl, hw⟩ := decode_eq_ok h
  rw [encode, ← eq_encodeWord_of_decodeWord hw]

/-- Settles O3. -/
theorem writtenOutWordsDecode : Obligations.WrittenOutWordsDecode := by
  unfold Obligations.WrittenOutWordsDecode
  decide

/-- Settles O4, by the two tests of `decodeBrb`. -/
theorem unknownBrbWordsAreRefusedByName : Obligations.UnknownBrbWordsAreRefusedByName := by
  intro op2 rt
  rw [decodeWord_sysWord]
  refine ⟨fun h4 h5 => by simp [decodeBrb, h4, h5], fun hop hrt => ?_⟩
  rcases hop with rfl | rfl <;> simp [decodeBrb, hrt]

end Sys2Proof.Machine

/-! What a step does with the item delivered next, what is never delivered, and the obligations on the dispatch
(spec/00_scope.md section 5, spec/30_encoding.md section 5). -/

namespace Sys2Proof.Machine

open Sys2Proof

/-! ### The step, by the item delivered next -/

theorem step_of_illegal {s : State} {i : Input} {rest : List Input} {why : IllegalInput}
    (hi : s.inputs = i :: rest) (hl : i.illegal s.params = some why) : step s = .refused (.illegalInput why) := by
  simp [step, nextInput, hi, hl]

theorem step_event {s : State} {e : Event} {rest : List Input} (hi : s.inputs = .event e :: rest)
    (hl : e.illegal s.params = none) : step s = handle e { s with inputs := rest } := by
  have legal : (Input.event e).illegal s.params = none := hl
  simp [step, nextInput, hi, legal]

theorem step_instruction {s : State} {bytes : List Byte} {port : PePort} {rest : List Input} {i : Instr}
    {tail : List Byte} (hi : s.inputs = .instruction bytes port :: rest) (hl : port.illegal s.params = none)
    (hd : decode bytes = .ok i tail) : step s = exec i { s with inputs := rest, port := port } := by
  have legal : (Input.instruction bytes port).illegal s.params = none := hl
  simp [step, nextInput, hi, legal, fetched, hd]

theorem step_undecodable {s : State} {bytes : List Byte} {port : PePort} {rest : List Input} {why : DecodeError}
    (hi : s.inputs = .instruction bytes port :: rest) (hl : port.illegal s.params = none)
    (hd : decode bytes = .reject why) : step s = .refused (.undecodable why) := by
  have legal : (Input.instruction bytes port).illegal s.params = none := hl
  simp [step, nextInput, hi, legal, fetched, hd]

/-! ### What is never delivered -/

/-- A legal context is one of the Exception levels and Execution states that the PE has (decision D7). -/
theorem Context.illegal_eq_none_iff {p : Params} {c : Context} : c.illegal p = none ↔ ¬ AbsentContext p c := by
  unfold Context.illegal AbsentContext
  grind

theorem BranchType.illegal_eq_none_iff {p : Params} {n : BranchType} :
    BranchType.illegal p n = none ↔ n < p.branchTypes := by
  simp [BranchType.illegal]

/-- Every context and every type that a legal event carries is one of this PE. -/
theorem Event.legal_operands {p : Params} {e : Event} (h : e.illegal p = none) :
    (∀ c ∈ eventContexts e, c.illegal p = none) ∧ ∀ n ∈ eventTypes e, n < p.branchTypes := by
  cases e with
  | exception e | exceptionReturn e =>
    simp only [Event.illegal] at h
    split at h
    · cases h
    · simpa [eventContexts, eventTypes, Option.or_eq_none_iff, BranchType.illegal_eq_none_iff] using h
  | takenBranch | debugEntry | debugExit =>
    simpa [Event.illegal, eventContexts, eventTypes, Option.or_eq_none_iff, BranchType.illegal_eq_none_iff] using h
  | brbIall | brbInj => simpa [Event.illegal, eventContexts, eventTypes] using h
  | sysRegWrite w =>
    cases w with
    | injType n => simpa [Event.illegal, RegWrite.illegal, eventContexts, eventTypes,
        BranchType.illegal_eq_none_iff] using h
    | _ => simp [eventContexts, eventTypes]
  | _ => simp [eventContexts, eventTypes]

theorem PePort.illegal_eq_none_iff {p : Params} {port : PePort} :
    port.illegal p = none ↔
      port.ctx.illegal p = none ∧ port.toCtx.illegal p = none ∧ port.type < p.branchTypes := by
  simp [PePort.illegal, BranchType.illegal_eq_none_iff, and_assoc]

/-- What is not legal is refused by the check it fails first. -/
theorem step_refused_of_illegal {s : State} {i : Input} {rest : List Input} (hi : s.inputs = i :: rest)
    (hl : i.illegal s.params ≠ none) : ∃ why, step s = .refused (.illegalInput why) := by
  obtain ⟨why, hwhy⟩ := Option.ne_none_iff_exists'.mp hl
  exact ⟨why, step_of_illegal hi hwhy⟩

/-! ### Bytes that spell no instruction (rule R62) -/

theorem decode_of_length_lt {bytes : List Byte} (h : bytes.length < 4) : decode bytes = .reject .truncated := by
  unfold decode
  split
  · simp at h; omega
  · rfl

/-- A word outside the `BRB` group that spells no instruction is outside the table. -/
theorem decodeWord_of_not_inBrbGroup {w : Word} {why : DecodeError} (group : inBrbGroup w = false)
    (h : decodeWord w = .inr why) : why = .notInTable := by
  simp only [decodeWord, group] at h
  grind

/-! ### The obligations -/

/-- Settles O5. -/
theorem stepExecutesThePresentedInstruction : Obligations.StepExecutesThePresentedInstruction :=
  fun _ _ _ _ _ _ => step_instruction

/-- Settles O6. -/
theorem stepHandlesTheDeliveredEvent : Obligations.StepHandlesTheDeliveredEvent := by
  refine ⟨fun s e rest => step_event, fun s hi => ?_⟩
  simp [step, nextInput, hi]

/-- Settles O7: what is never delivered fails a check of its own name, and other bytes fail in the decoder. -/
theorem stepRefusesWhatIsNeverDelivered : Obligations.StepRefusesWhatIsNeverDelivered := by
  intro s rest
  refine ⟨?exceptionToEL0, ?returnAtEL0, ?withoutTME, ?operandsOfEvent, ?operandsOfPort, ?contextByName, ?typeByName,
    ?undecodable⟩
  case exceptionToEL0 =>
    intro e hel hi
    exact step_of_illegal hi (by simp [Input.illegal, Event.illegal, hel])
  case returnAtEL0 =>
    intro r hel hi
    exact step_of_illegal hi (by simp [Input.illegal, Event.illegal, hel])
  case withoutTME =>
    rintro htme (hi | hi | hi) <;> exact step_of_illegal hi (by simp [Input.illegal, Event.illegal, htme])
  case operandsOfEvent =>
    intro e hi habsent
    refine step_refused_of_illegal hi fun legal => ?_
    obtain ⟨contexts, types⟩ := Event.legal_operands legal
    rcases habsent with ⟨c, hc, absent⟩ | ⟨n, hn, large⟩
    · exact Context.illegal_eq_none_iff.mp (contexts c hc) absent
    · exact (types n hn).not_ge large
  case operandsOfPort =>
    intro bytes port hi habsent
    refine step_refused_of_illegal hi fun legal => ?_
    obtain ⟨ctx, toCtx, type⟩ := PePort.illegal_eq_none_iff.mp legal
    rcases habsent with absent | absent | large
    · exact Context.illegal_eq_none_iff.mp ctx absent
    · exact Context.illegal_eq_none_iff.mp toCtx absent
    · exact type.not_ge large
  case contextByName =>
    intro c hi
    have refused : ∀ why, c.illegal s.params = some why → step s = .refused (.illegalInput why) :=
      fun why hl => hi.elim (step_of_illegal · hl) (step_of_illegal · hl)
    refine ⟨fun h2 hc => refused _ ?_, fun h3 hel h2 => refused _ ?_, fun h32 hc hel h2 => refused _ ?_⟩
    · rcases hc with hc | hc <;> simp [Context.illegal, h2, hc]
    · simp [Context.illegal, h3, hel, h2]
    · rcases hel with hel | hel <;> simp [Context.illegal, h32, hc, hel, h2]
  case typeByName =>
    intro n large hi
    exact step_of_illegal hi (by simp [Input.illegal, Event.illegal, RegWrite.illegal, BranchType.illegal, large])
  case undecodable =>
    intro bytes port hi legal spellsNone
    cases hd : decode bytes with
    | ok i tail => exact absurd (decodedBytesAreTheEncoding bytes i tail hd) (spellsNone i tail)
    | reject why =>
      refine ⟨why, step_undecodable hi legal hd, fun short => ?_, ?_⟩
      · rw [decode_of_length_lt short] at hd
        cases hd; rfl
      · rintro w tail rfl group
        rw [decode_bytesOfWord] at hd
        cases hw : decodeWord w with
        | inl i => simp [hw] at hd
        | inr x => simp only [hw] at hd; cases hd; exact decodeWord_of_not_inBrbGroup group hw

end Sys2Proof.Machine

/-! What a step can do, said once: the event it handles, and the operations that handling an event is made of. The
statements about every step are derived from it in the sections after this one. -/

namespace Sys2Proof.Machine

open Sys2Proof

/-! ### An instruction word does what the event of its row does (notes/assumptions/8.md) -/

/-- The event whose effect an instruction has, with the arguments that the PE presents beside the word. -/
def instrEvent (i : Instr) (s : State) : Event :=
  match i with
  | .brbIall => .brbIall s.port.ctx
  | .brbInj => .brbInj s.port.ctx
  | .isb _ => .contextSync
  | .eret => .exceptionReturn (portReturn s)

theorem handle_instrEvent {i : Instr} {s t : State} (h : exec i s = .next t) :
    handle (instrEvent i s) s = .next t := by
  cases i with
  | brbIall | brbInj | isb => exact h
  | eret => exact congrArg Host.Outcome.next (eq_returnFromException_of_exec_eret h).symm

/-- Next in the delivery of `s` is the event `e`, or a word with the effect of `e`; `rest` and `port` are what is
delivered after it and the port as the step leaves it. -/
inductive Delivers (s : State) : Event → List Input → PePort → Prop
  | event {e : Event} {rest : List Input} (next : s.inputs = .event e :: rest) (legal : e.illegal s.params = none) :
      Delivers s e rest s.port
  | word {bytes : List Byte} {port : PePort} {rest : List Input} {i : Instr} {tail : List Byte}
      (next : s.inputs = .instruction bytes port :: rest) (legal : port.illegal s.params = none)
      (decoded : decode bytes = .ok i tail) :
      Delivers s (instrEvent i { s with inputs := rest, port := port }) rest port

/-- A step that answers a next state handled the event delivered. -/
theorem step_next_event {s t : State} (h : step s = .next t) :
    t = s ∨ ∃ e rest port, Delivers s e rest port ∧ handle e { s with inputs := rest, port := port } = .next t := by
  obtain ⟨-, rfl⟩ | ⟨e, rest, next, legal, handled⟩ | ⟨bytes, port, rest, i, tail, next, legal, decoded, executed⟩ :=
    step_next h
  · exact .inl rfl
  · exact .inr ⟨e, rest, s.port, .event next legal, handled⟩
  · exact .inr ⟨_, rest, port, .word next legal decoded, handle_instrEvent executed⟩

/-- What an event delivered carries is of this PE. -/
structure LegalOperands (p : Params) (e : Event) : Prop where
  contexts : ∀ c ∈ eventContexts e, c.illegal p = none
  types : ∀ n ∈ eventTypes e, n < p.branchTypes
  transactions : e = .txnStart → p.haveTME = true

theorem Delivers.legalOperands {s : State} {e : Event} {rest : List Input} {port : PePort}
    (h : Delivers s e rest port) : LegalOperands s.params e := by
  cases h with
  | event next legal =>
    obtain ⟨contexts, types⟩ := Event.legal_operands legal
    refine ⟨contexts, types, ?_⟩
    rintro rfl
    simpa [Event.illegal] using legal
  | @word _ _ _ i _ next legal decoded =>
    obtain ⟨ctx, toCtx, type⟩ := PePort.illegal_eq_none_iff.mp legal
    constructor <;> cases i <;> simp [instrEvent, eventContexts, eventTypes, portReturn, ctx, toCtx, type]

theorem Delivers.port_legal {s : State} {e : Event} {rest : List Input} {port : PePort}
    (h : Delivers s e rest port) (hs : s.port.illegal s.params = none) : port.illegal s.params = none := by
  cases h with
  | event => exact hs
  | word next legal decoded => exact legal

/-- A `BRB` instruction comes next exactly when its event is the one delivered. -/
theorem Delivers.deliversBrb_iff {s : State} {e : Event} {rest : List Input} {port : PePort}
    (h : Delivers s e rest port) :
    (DeliversBrb s .brbIall ↔ ∃ c, e = .brbIall c) ∧ (DeliversBrb s .brbInj ↔ ∃ c, e = .brbInj c) := by
  cases h with
  | event next => simp [DeliversBrb, next]
  | @word _ _ _ i _ next legal decoded => cases i <;> simp [DeliversBrb, next, decoded, instrEvent]

/-! ### The operations of an event -/

/-- One operation on the state outside the buffer that handling the event `e` may be made of. -/
inductive Op (e : Event) (s : State) : State → Prop
  | sync : Op e s (contextSync s)
  | propagate (f : ControlField) : Op e s (propagate f s)
  | enter {c : Context} (operand : c ∈ eventContexts e) : Op e s (enterContext c s)
  | move {c : Context} (operand : c ∈ eventContexts e) : Op e s (moveTo c s)
  | moveToDebug : Op e s (moveTo { s.ctx with debug := true } s)
  | freeze : Op e s (freeze s)
  | report (r : Report) : Op e s (report r s)
  | read {x : Report} {f : Free} (undrawn : f.record = s.free.record) :
      Op e s { s with reports := x :: s.reports, free := f }
  | write {w : RegWrite} (isWrite : e = .sysRegWrite w) : Op e s (writeField w s)
  | txnStart (isStart : e = .txnStart) : Op e s (txnStart s)
  | txnEnd : Op e s (txnEnd s)
  | txnFail : Op e s (txnFailOrCancel s)
  | tick (active : Bool) : Op e s (tick active s)

/-- Any number of operations outside the buffer. -/
abbrev Ops (e : Event) : State → State → Prop := Relation.ReflTransGen (Op e)

/-- The events that generate a record (spec/40_branch_records.md rules R65, R66). -/
def generates : Event → Bool
  | .takenBranch _ | .exception _ | .exceptionReturn _ | .debugEntry _ _ _ | .debugExit _ _ _ => true
  | .txnStart | .txnEnd | .txnFailOrCancel | .brbIall _ | .brbInj _ | .sysRegWrite _ | .sysRegRead _
  | .contextSync | .freeze | .tick _ | .propagate _ => false

/-- The one operation on the buffer that handling the event `e` may have. -/
inductive BufferOp (e : Event) (s : State) : State → Prop
  | keep : BufferOp e s s
  | generate {type : BranchType} (generating : generates e = true) (operand : type ∈ eventTypes e) (c : Capture)
      (mpred : Bool) : BufferOp e s (generateRecord c type mpred s)
  | invalidate {c : Context} (isIall : e = .brbIall c) : BufferOp e s (invalidateAll s)
  | inject {c : Context} (isInj : e = .brbInj c) : BufferOp e s (injectRecord s)

/-- From `s` to `t` the event `e` is handled: one operation on the buffer, with others before it and, where a freeze
event may race (spec/20_memory.md rule R49), after it. -/
def Handles (e : Event) (s t : State) : Prop :=
  ∃ u v, Ops e s u ∧ BufferOp e u v ∧ Ops e v t ∧ (s.params.freeze = .recalled → t = v)

theorem Handles.of_ops {e : Event} {s t : State} (h : Ops e s t) : Handles e s t :=
  ⟨t, t, h, .keep, .refl, fun _ => rfl⟩

theorem Handles.of_op {e : Event} {s t : State} (h : Op e s t) : Handles e s t := .of_ops (.single h)

theorem Handles.of_bufferOp {e : Event} {s t : State} (h : BufferOp e s t) : Handles e s t :=
  ⟨s, t, .refl, h, .refl, fun _ => rfl⟩

theorem Handles.of_op_bufferOp {e : Event} {s u t : State} (hop : Op e s u) (hbuf : BufferOp e u t) :
    Handles e s t :=
  ⟨u, t, .single hop, hbuf, .refl, fun _ => rfl⟩

/-- What all the operations keep, handling an event keeps. -/
theorem Ops.keep {e : Event} {P : State → Prop} (hop : ∀ a b, Op e a b → P a → P b) {s t : State} (h : Ops e s t)
    (hs : P s) : P t := by
  induction h with
  | refl => exact hs
  | tail _ last ih => exact hop _ _ last ih

theorem Handles.keep {e : Event} {P : State → Prop} (hop : ∀ a b, Op e a b → P a → P b)
    (hbuf : ∀ a b, BufferOp e a b → P a → P b) {s t : State} (h : Handles e s t) (hs : P s) : P t := by
  obtain ⟨u, v, before, buffer, after, -⟩ := h
  exact after.keep hop (hbuf u v buffer (before.keep hop hs))

/-! ### Every event is handled so -/

/-- A transition enters its target context, generates one record or none, and a freeze event may race. -/
theorem handles_transition {e : Event} {fromCtx toCtx : Context} {type : BranchType} (generating : generates e = true)
    (target : toCtx ∈ eventContexts e) (ofType : type ∈ eventTypes e) (src tgt : Addr)
    (enabled mpred : Params → Controls → Bool) (s : State) :
    Handles e s (transition e fromCtx toCtx src tgt type enabled mpred s) := by
  obtain ⟨u, v, hu, hv, ht, recalled⟩ := transition_cases e fromCtx toCtx src tgt type enabled mpred s
  refine ⟨u, v, ?before, ?buffer, ?after, fun h => (recalled h).2⟩
  case before =>
    rcases hu with rfl | rfl
    · exact .single (.enter target)
    · exact .tail (.single (.enter target)) .freeze
  case buffer =>
    rcases hv with rfl | ⟨c, -, -, -, rfl⟩
    · exact .keep
    · exact .generate generating ofType ..
  case after =>
    rcases ht with ht | ht <;> rw [ht]
    exact .single .freeze

/-- The guard of a `BRB` instruction lets its effect through, or makes a report in place of it. -/
theorem guardedBrb_effect_or_ops (e : Event) (op : BrbOp) (c : Context) (effect : State → State) (s : State) :
    guardedBrb op c effect s = effect s ∨ Ops e s (guardedBrb op c effect s) := by
  obtain ⟨-, -, allowed⟩ | ⟨-, -, undefined⟩ | ⟨-, el, -, trapped⟩ | ⟨-, failed⟩ := guardedBrb_cases op c effect s
  · exact .inl allowed
  · rw [undefined]; exact .inr (.single (.report _))
  · rw [trapped]; exact .inr (.single (.report _))
  · rw [failed]; exact .inr (.tail (.single (.report _)) .txnFail)

theorem handles_guardedBrb {e : Event} {effect : State → State} {s : State} (h : BufferOp e s (effect s)) (op : BrbOp)
    (c : Context) : Handles e s (guardedBrb op c effect s) := by
  obtain allowed | instead := guardedBrb_effect_or_ops e op c effect s
  · rw [allowed]; exact .of_bufferOp h
  · exact .of_ops instead

theorem loadedCtx_mem (r : ReturnEvent) : loadedCtx r ∈ eventContexts (.exceptionReturn r) := by
  unfold loadedCtx
  split <;> simp [eventContexts]

/-- What handling an event does. -/
theorem handles_of_handle {e : Event} {s t : State} (h : handle e s = .next t) : Handles e s t := by
  cases e with
  | sysRegWrite w =>
    obtain ⟨r, rfl⟩ | ⟨-, -, rfl⟩ := sysRegWrite_next h
    · exact .of_op (.report r)
    · exact .of_op (.write rfl)
  | sysRegRead r =>
    obtain ⟨x, f, rfl, undrawn, -⟩ := sysRegRead_next h
    exact .of_op (.read undrawn)
  | takenBranch b =>
    cases h
    obtain ⟨-, suppressed⟩ | ⟨-, -, generated⟩ := takenBranch_cases b s
    · rw [suppressed]; exact .of_ops .refl
    · rw [generated]; exact .of_bufferOp (.generate rfl (by simp [eventTypes]) ..)
  | exception e =>
    cases h
    exact handles_transition rfl (by simp [eventContexts]) (by simp [eventTypes]) ..
  | exceptionReturn r =>
    cases h
    exact handles_transition rfl (loadedCtx_mem r) (by simp [eventTypes]) ..
  | debugEntry c src type =>
    cases h
    obtain moved | ⟨-, -, generated⟩ := debugEntry_cases c src type s
    · rw [moved]; exact .of_op .moveToDebug
    · rw [generated]; exact .of_op_bufferOp .moveToDebug (.generate rfl (by simp [eventTypes]) ..)
  | debugExit c tgt type =>
    cases h
    have operand : c ∈ eventContexts (.debugExit c tgt type) := by simp [eventContexts]
    obtain moved | ⟨-, -, generated⟩ := debugExit_cases c tgt type s
    · rw [moved]; exact .of_op (.move operand)
    · rw [generated]; exact .of_op_bufferOp (.move operand) (.generate rfl (by simp [eventTypes]) ..)
  | brbIall c => cases h; exact handles_guardedBrb (.invalidate rfl) ..
  | brbInj c => cases h; exact handles_guardedBrb (.inject rfl) ..
  | txnStart => cases h; exact .of_op (.txnStart rfl)
  | txnEnd => cases h; exact .of_op .txnEnd
  | txnFailOrCancel => cases h; exact .of_op .txnFail
  | contextSync => cases h; exact .of_op .sync
  | freeze => cases h; exact .of_op .freeze
  | tick active => cases h; exact .of_op (.tick active)
  | propagate f => cases h; exact .of_op (.propagate f)

end Sys2Proof.Machine

/-! What every step leaves unchanged and what it may do to the buffer, to pending writes and to the transaction's class,
and the obligations on these. -/

namespace Sys2Proof.Machine

open Sys2Proof

/-! ### The frame of the operations outside the buffer -/

theorem txnStart_of_transactional {s : State} (h : s.txn ≠ .none) : txnStart s = s := by
  unfold txnStart
  split
  · contradiction
  all_goals rfl

/-- A start changes the class alone: outside a transaction to that of the region, inside one not at all. -/
theorem txnStart_eq (s : State) :
    txnStart s = { s with txn := if s.txn = .none then (if s.inProhibited then .allP else .allNP) else s.txn } := by
  by_cases h : s.txn = .none
  · simp [txnStart, h]
  · simp [txnStart_of_transactional h, h]

theorem tick_eq (active : Bool) (s : State) : tick active s = { s with cyc := s.cyc + active.toNat } := by
  cases active <;> rfl

/-- `t` has the parameters, the buffer, the port and the delivery of `s`, and no record has been generated. -/
structure SameFrame (s t : State) : Prop where
  params : t.params = s.params
  records : t.records = s.records
  port : t.port = s.port
  generated : t.free.record = s.free.record

theorem SameFrame.refl (s : State) : SameFrame s s := ⟨rfl, rfl, rfl, rfl⟩

theorem SameFrame.trans {s t u : State} (h : SameFrame s t) (h' : SameFrame t u) : SameFrame s u :=
  ⟨h'.params.trans h.params, h'.records.trans h.records, h'.port.trans h.port, h'.generated.trans h.generated⟩

theorem Op.sameFrame {e : Event} {s t : State} (h : Op e s t) : SameFrame s t := by
  cases h with
  | sync | propagate | enter | move | moveToDebug | freeze | report | txnEnd => exact ⟨rfl, rfl, rfl, rfl⟩
  | read undrawn => exact ⟨rfl, rfl, rfl, undrawn⟩
  | write => rw [writeField_frame]; exact ⟨rfl, rfl, rfl, rfl⟩
  | txnStart => rw [txnStart_eq]; exact ⟨rfl, rfl, rfl, rfl⟩
  | txnFail =>
    obtain ⟨l, k, failed, -⟩ := txnFailOrCancel_spec s
    rw [failed]; exact ⟨rfl, rfl, rfl, rfl⟩
  | tick active => rw [tick_eq]; exact ⟨rfl, rfl, rfl, rfl⟩

theorem Ops.sameFrame {e : Event} {s t : State} (h : Ops e s t) : SameFrame s t :=
  h.keep (fun _ _ op ih => ih.trans op.sameFrame) (.refl s)

theorem BufferOp.params {e : Event} {s t : State} (h : BufferOp e s t) : t.params = s.params := by
  cases h <;> rfl

theorem Handles.params {e : Event} {s t : State} (h : Handles e s t) : t.params = s.params :=
  h.keep (P := fun a => a.params = s.params) (fun _ _ op ih => op.sameFrame.params.trans ih)
    (fun _ _ op ih => op.params.trans ih) rfl

/-! ### The buffer -/

/-- What an operation may do to the buffer, `records` before it: keep it, push one record, or invalidate every one. -/
def BufferChange (p : Params) (records after : List Record) : Prop :=
  after = records ∨ (∃ r, after = (r :: records).take p.numrec) ∨
    (after.length = records.length ∧ ∀ r ∈ after, r.inf.valid = 0b00#2)

/-- After invalidation every record is invalid, whatever the parameters. -/
theorem invalidated_valid (p : Params) (k n : Nat) (rs : List Record) :
    ∀ r ∈ invalidated p k n rs, r.inf.valid = 0b00#2 := by
  induction rs generalizing n with
  | nil => simp [invalidated]
  | cons r rs ih => simpa [invalidated] using ih (n + 1)

theorem BufferOp.change {e : Event} {s t : State} (h : BufferOp e s t) :
    BufferChange s.params s.records t.records := by
  cases h with
  | keep => exact .inl rfl
  | generate => exact .inr (.inl ⟨_, rfl⟩)
  | invalidate => exact .inr (.inr ⟨invalidated_length .., invalidated_valid _ _ _ _⟩)
  | inject => exact .inr (.inl ⟨_, rfl⟩)

theorem Handles.bufferChange {e : Event} {s t : State} (h : Handles e s t) :
    BufferChange s.params s.records t.records := by
  obtain ⟨u, v, before, buffer, after, -⟩ := h
  have change := buffer.change
  rwa [before.sameFrame.params, before.sameFrame.records, ← after.sameFrame.records] at change

/-- An event that changes the buffer is a generating one or a `BRB` instruction's. -/
theorem Handles.of_records_ne {e : Event} {s t : State} (h : Handles e s t) (hne : t.records ≠ s.records) :
    generates e = true ∨ (∃ c, e = .brbIall c) ∨ ∃ c, e = .brbInj c := by
  obtain ⟨u, v, before, buffer, after, -⟩ := h
  cases buffer with
  | keep => exact absurd (before.sameFrame.trans after.sameFrame).records hne
  | generate generating => exact .inl generating
  | invalidate isIall => exact .inr (.inl ⟨_, isIall⟩)
  | inject isInj => exact .inr (.inr ⟨_, isInj⟩)

/-! ### Pending writes -/

/-- With no write pending there is nothing for `Propagate` to copy. -/
@[simp] theorem copyField_self (f : ControlField) (v : Controls) : copyField f v v = v := by
  cases f <;> rfl

/-- No operation but a register write makes a write pending, the freeze event as rule R160 recommends it. -/
theorem Op.quiescent {e : Event} {s t : State} (h : Op e s t) (noWrite : ∀ w, e ≠ .sysRegWrite w)
    (recalled : s.params.freeze = .recalled) (hs : Quiescent s) : Quiescent t := by
  unfold Quiescent at *
  cases h with
  | sync | enter => rfl
  | propagate f => simp [hs]
  | freeze => simp [freezeOutcome_recalled recalled, hs]
  | write isWrite => exact absurd isWrite (noWrite _)
  | move | moveToDebug | report | read | txnEnd => exact hs
  | txnStart => rw [txnStart_eq]; exact hs
  | txnFail =>
    obtain ⟨l, k, failed, -⟩ := txnFailOrCancel_spec s
    rw [failed]; exact hs
  | tick active => rw [tick_eq]; exact hs

theorem BufferOp.quiescent {e : Event} {s t : State} (h : BufferOp e s t) (hs : Quiescent s) : Quiescent t := by
  cases h <;> exact hs

theorem Handles.quiescent {e : Event} {s t : State} (h : Handles e s t) (noWrite : ∀ w, e ≠ .sysRegWrite w)
    (recalled : s.params.freeze = .recalled) (hs : Quiescent s) : Quiescent t :=
  (h.keep (P := fun a => a.params.freeze = .recalled ∧ Quiescent a)
    (fun _ _ op ih => ⟨op.sameFrame.params ▸ ih.1, op.quiescent noWrite ih.1 ih.2⟩)
    (fun _ _ op ih => ⟨op.params ▸ ih.1, op.quiescent ih.2⟩) ⟨recalled, hs⟩).2

/-! ### The transaction's class (spec/46_tme_and_speculation.md rule R153) -/

/-- From `s` to `t` the transaction has ended, has become mixed, or has gone on with its class and its region. -/
def TxnFollows (s t : State) : Prop :=
  t.txn = .none ∨ (s.txn ≠ .none ∧ t.txn = .mixed) ∨ (t.txn = s.txn ∧ t.inProhibited = s.inProhibited)

theorem TxnFollows.refl (s : State) : TxnFollows s s := .inr (.inr ⟨rfl, rfl⟩)

theorem TxnFollows.trans {s t u : State} (h : TxnFollows s t) (h' : TxnFollows t u) : TxnFollows s u := by
  unfold TxnFollows at *
  grind

/-- A transaction of one class throughout has been of that class and in its region before. -/
theorem TxnFollows.goes_on {s t : State} (h : TxnFollows s t) {txn : Txn} (ht : t.txn = txn)
    (not_none : txn ≠ .none) (not_mixed : txn ≠ .mixed) :
    s.txn = txn ∧ t.inProhibited = s.inProhibited := by
  subst ht
  obtain ended | ⟨-, mixed⟩ | ⟨class_eq, region_eq⟩ := h
  · contradiction
  · contradiction
  · exact ⟨class_eq.symm, region_eq⟩

/-- `Rebook` follows the region: a class that an operation has kept, ended or made mixed it keeps or makes mixed. -/
theorem txnFollows_rebook {s u : State} (before : Controls)
    (txn : u.txn = s.txn ∨ u.txn = .none ∨ (s.txn ≠ .none ∧ u.txn = .mixed))
    (region : u.inProhibited = s.inProhibited) : TxnFollows s (rebook before u) := by
  unfold TxnFollows
  simp only [rebook_txn, rebook_inProhibited, beq_iff_eq, ← region]
  split
  · grind
  · cases hu : u.txn <;> simp [mixTxn] <;> grind

theorem Op.txnFollows {e : Event} {s t : State} (h : Op e s t) (noStart : e ≠ .txnStart) : TxnFollows s t := by
  cases h with
  | sync | propagate | enter | move | moveToDebug => exact txnFollows_rebook _ (.inl rfl) rfl
  | freeze => exact txnFollows_rebook _ (freezeOutcome_txn s) rfl
  | report | read => exact .refl s
  | write => rw [writeField_frame]; exact .inr (.inr ⟨rfl, rfl⟩)
  | txnStart isStart => exact absurd isStart noStart
  | txnEnd => exact .inl rfl
  | txnFail =>
    obtain ⟨l, k, failed, -⟩ := txnFailOrCancel_spec s
    rw [failed]; exact .inl rfl
  | tick active => rw [tick_eq]; exact .inr (.inr ⟨rfl, rfl⟩)

theorem BufferOp.txnFollows {e : Event} {s t : State} (h : BufferOp e s t) : TxnFollows s t := by
  cases h <;> exact .inr (.inr ⟨rfl, rfl⟩)

theorem txnFollows_of_handle {e : Event} {s t : State} (h : handle e s = .next t) (inTransaction : s.txn ≠ .none) :
    TxnFollows s t := by
  by_cases isStart : e = .txnStart
  · subst isStart
    cases h
    rw [txnStart_of_transactional inTransaction]
    exact .refl s
  · exact (handles_of_handle h).keep (P := TxnFollows s) (fun _ _ op ih => ih.trans (op.txnFollows isStart))
      (fun _ _ op ih => ih.trans op.txnFollows) (.refl s)

/-! ### The obligations -/

/-- Settles O11: no operation of an event changes the parameters. -/
theorem noStepChangesTheParameters : Obligations.NoStepChangesTheParameters := by
  intro s t h
  obtain rfl | ⟨e, rest, port, -, handled⟩ := step_next_event h
  · rfl
  · exact (handles_of_handle handled).params

/-- Settles O12: an event that changes the buffer is a generating one or a `BRB` instruction's, delivered as itself or
as the word that has its effect. -/
theorem onlyTheseInputsChangeTheBuffer : Obligations.OnlyTheseInputsChangeTheBuffer := by
  intro s t h hne
  obtain rfl | ⟨e, rest, port, delivered, handled⟩ := step_next_event h
  · exact absurd rfl hne
  have kind := (handles_of_handle handled).of_records_ne hne
  cases delivered with
  | event next =>
    refine .inl ⟨rest, ?_⟩
    cases e <;> simp_all [generates]
  | @word bytes port rest i tail next legal decoded =>
    refine .inr ⟨bytes, port, rest, i, tail, next, decoded, ?_⟩
    cases i <;> simp_all [generates, instrEvent]

/-- Settles O13: an event has one operation on the buffer, and it is one of these. -/
theorem aStepPushesOneRecordOrInvalidatesAll : Obligations.AStepPushesOneRecordOrInvalidatesAll := by
  intro s t h
  obtain rfl | ⟨e, rest, port, -, handled⟩ := step_next_event h
  · exact .inl rfl
  · exact (handles_of_handle handled).bufferChange

/-- Settles O14: a register write is delivered as its event alone, and no other operation makes a write pending. -/
theorem quiescenceIsKept : Obligations.QuiescenceIsKept := by
  intro s t quiescent recalled noWrite h
  obtain rfl | ⟨e, rest, port, delivered, handled⟩ := step_next_event h
  · exact quiescent
  refine (handles_of_handle handled).quiescent ?_ recalled quiescent
  intro w isWrite
  cases delivered with
  | event next => exact noWrite w rest (isWrite ▸ next)
  | @word _ _ _ i => cases i <;> cases isWrite

/-- Settles O15: the transaction's class follows the region through every operation of an event. -/
theorem aRegionChangeMixesTheTransaction : Obligations.ARegionChangeMixesTheTransaction := by
  intro s t h inTransaction stillIn moved
  obtain rfl | ⟨e, rest, port, -, handled⟩ := step_next_event h
  · exact absurd rfl moved
  obtain ended | ⟨-, mixed⟩ | ⟨-, region⟩ := txnFollows_of_handle handled inTransaction
  · exact absurd ended stillIn
  · exact mixed
  · exact absurd region.symm moved

end Sys2Proof.Machine

/-! The invariant: each operation of a legal event keeps it, so every step does, and the state after reset has it. -/

namespace Sys2Proof.Machine

open Sys2Proof

/-! ### Records and controls within their fields -/

theorem Params.wf_iff {p : Params} :
    p.wf = true ↔ 1 ≤ p.numrec ∧ 1 ≤ p.ccsize ∧ 1 ≤ p.ccw ∧ 1 ≤ p.branchTypes := by
  simp [Params.wf, and_assoc]

theorem fitRecord_fits {p : Params} (hp : 1 ≤ p.branchTypes) (r : Record) : Record.Fits p (fitRecord p r) :=
  ⟨fitCC_lt .., Nat.mod_lt _ hp⟩

theorem newRecord_fits {s : State} {type : BranchType} (h : type < s.params.branchTypes) (c : Capture)
    (mpred : Bool) : Record.Fits s.params (newRecord c type mpred s) :=
  ⟨cycleFields_fit s, h⟩

theorem freezeOutcome_injection_fits {s : State} (hp : 1 ≤ s.params.branchTypes)
    (h : Record.Fits s.params s.injection) : Record.Fits s.params (freezeOutcome s).injection := by
  unfold freezeOutcome
  split
  · exact fitRecord_fits hp _
  · exact h

/-- A write of the injection source keeps it within its fields: the count is cut to `CCW` bits, the type is checked. -/
theorem writeField_injection_fits {w : RegWrite} {s : State} (h : Record.Fits s.params s.injection)
    (types : ∀ n ∈ eventTypes (.sysRegWrite w), n < s.params.branchTypes) :
    Record.Fits s.params (writeField w s).injection := by
  cases w with
  | injCc n => exact ⟨fitCC_lt .., h.2⟩
  | injType n => exact ⟨h.1, types n (by simp [eventTypes])⟩
  | _ => exact h

/-! ### The operations keep the invariant -/

/-- A push onto a full buffer loses the oldest record and keeps the length. -/
theorem State.Inv.push {s : State} (h : s.Inv) {r : Record} (fits : Record.Fits s.params r) :
    (push r s).Inv :=
  { h with
    numrec := by simp [h.numrec]
    records_fit := fun x hx => (List.mem_cons.mp (List.mem_of_mem_take hx)).elim (· ▸ fits) (h.records_fit x) }

/-- `Rebook` establishes the region and keeps the transaction's class in agreement with it, after an operation that
keeps the rest of the invariant. -/
theorem State.Inv.rebook {s u : State} (h : s.Inv) (before : Controls) (params : u.params = s.params)
    (records : u.records = s.records) (injection : Record.Fits s.params u.injection)
    (ctx : u.ctx.illegal s.params = none) (port : u.port = s.port) (region : u.inProhibited = s.inProhibited)
    (txn : u.txn = s.txn ∨ u.txn = .none ∨ (s.txn ≠ .none ∧ u.txn = .mixed)) : (rebook before u).Inv := by
  have follows := txnFollows_rebook before txn region
  constructor
  case params_wf => simpa [params] using h.params_wf
  case numrec => simpa [records, params] using h.numrec
  case records_fit => simpa [records, params] using h.records_fit
  case injection_fit => simpa [params] using injection
  case ctx_legal => simpa [params] using ctx
  case port_legal => simpa [params, port] using h.port_legal
  case region => rfl
  case txn_allNP =>
    intro allNP
    obtain ⟨class_eq, region_eq⟩ := follows.goes_on allNP (by decide) (by decide)
    exact region_eq.trans (h.txn_allNP class_eq)
  case txn_allP =>
    intro allP
    obtain ⟨class_eq, region_eq⟩ := follows.goes_on allP (by decide) (by decide)
    exact region_eq.trans (h.txn_allP class_eq)
  case txn_none =>
    intro noTME
    have none := h.txn_none (params ▸ noTME)
    obtain ended | ⟨inTransaction, -⟩ | ⟨class_eq, -⟩ := follows
    · exact ended
    · exact absurd none inTransaction
    · exact class_eq.trans none

theorem Op.inv {e : Event} {s t : State} (h : Op e s t) (legal : LegalOperands s.params e) (hs : s.Inv) : t.Inv := by
  obtain ⟨-, -, -, branchTypes_pos⟩ := Params.wf_iff.mp hs.params_wf
  cases h with
  | sync | propagate | moveToDebug => exact hs.rebook _ rfl rfl hs.injection_fit hs.ctx_legal rfl rfl (.inl rfl)
  | enter operand | move operand =>
    exact hs.rebook _ rfl rfl hs.injection_fit (legal.contexts _ operand) rfl rfl (.inl rfl)
  | freeze =>
    exact hs.rebook _ rfl rfl (freezeOutcome_injection_fits branchTypes_pos hs.injection_fit) hs.ctx_legal rfl rfl
      (freezeOutcome_txn s)
  | report | read => exact { hs with }
  | write isWrite =>
    have fits := writeField_injection_fits hs.injection_fit (isWrite ▸ legal.types)
    rw [writeField_frame]
    exact { hs with injection_fit := fits }
  | txnStart isStart =>
    have withTME := legal.transactions isStart
    rw [txnStart_eq]
    refine { hs with txn_allNP := ?_, txn_allP := ?_, txn_none := by simp [withTME] }
    · have := hs.txn_allNP; dsimp only; grind
    · have := hs.txn_allP; dsimp only; grind
  | txnEnd => exact { hs with txn_allNP := nofun, txn_allP := nofun, txn_none := fun _ => rfl }
  | txnFail =>
    obtain ⟨l, k, failed, -⟩ := txnFailOrCancel_spec s
    rw [failed]
    exact { hs with txn_allNP := nofun, txn_allP := nofun, txn_none := fun _ => rfl }
  | tick => rw [tick_eq]; exact { hs with }

theorem BufferOp.inv {e : Event} {s t : State} (h : BufferOp e s t) (legal : LegalOperands s.params e) (hs : s.Inv) :
    t.Inv := by
  obtain ⟨-, -, -, branchTypes_pos⟩ := Params.wf_iff.mp hs.params_wf
  cases h with
  | keep => exact hs
  | generate generating operand c mpred => exact { hs.push (newRecord_fits (legal.types _ operand) c mpred) with }
  | invalidate =>
    exact { hs with
      numrec := (invalidated_length ..).trans hs.numrec
      records_fit := fun r hr => (invalidated_spec branchTypes_pos _ _ _ r hr).2 }
  | inject => exact hs.push hs.injection_fit

theorem Handles.inv {e : Event} {s t : State} (h : Handles e s t) (legal : LegalOperands s.params e) (hs : s.Inv) :
    t.Inv :=
  (h.keep (P := fun a => a.params = s.params ∧ a.Inv)
    (fun _ _ op ih => ⟨op.sameFrame.params.trans ih.1, op.inv (ih.1 ▸ legal) ih.2⟩)
    (fun _ _ op ih => ⟨op.params.trans ih.1, op.inv (ih.1 ▸ legal) ih.2⟩) ⟨rfl, hs⟩).2

/-! ### Reset (spec/10_state.md rule R36) -/

theorem configParams_wf : Config.params.wf = true := by
  simp [Params.wf_iff, Config.params]

theorem launchContext_legal : Config.launchContext.illegal Config.params = none := by
  simp [Context.illegal, Config.launchContext]

theorem zeroRecord_fits {p : Params} (hp : 1 ≤ p.branchTypes) : Record.Fits p zeroRecord :=
  ⟨Nat.two_pow_pos _, hp⟩

theorem resetOn_inv {p : Params} {c : Context} (wf : p.wf = true) (legal : c.illegal p = none) :
    (State.resetOn p c).Inv := by
  obtain ⟨-, -, -, branchTypes_pos⟩ := Params.wf_iff.mp wf
  have zero_fits := zeroRecord_fits branchTypes_pos
  exact {
    params_wf := wf
    numrec := List.length_replicate
    records_fit := fun r hr => List.eq_of_mem_replicate hr ▸ zero_fits
    injection_fit := zero_fits
    ctx_legal := legal
    port_legal := PePort.illegal_eq_none_iff.mpr ⟨legal, legal, branchTypes_pos⟩
    region := rfl
    txn_allNP := nofun
    txn_allP := nofun
    txn_none := fun _ => rfl }

/-! ### The obligations -/

/-- Settles O8: the delivery leaves a legal port, and every operation of a legal event keeps the invariant. -/
theorem stepKeepsTheInvariant : Obligations.StepKeepsTheInvariant := by
  intro s t hs h
  obtain rfl | ⟨e, rest, port, delivered, handled⟩ := step_next_event h
  · exact hs
  · have delivered_inv : State.Inv { s with inputs := rest, port := port } :=
      { hs with port_legal := delivered.port_legal hs.port_legal }
    exact (handles_of_handle handled).inv delivered.legalOperands delivered_inv

/-- Settles O9. -/
theorem resetMeetsTheInvariant : Obligations.ResetMeetsTheInvariant :=
  ⟨resetOn_inv configParams_wf launchContext_legal, fun _ _ => resetOn_inv⟩

/-- Settles O10. -/
theorem resetLeavesWhatTheSpecFixes : Obligations.ResetLeavesWhatTheSpecFixes :=
  fun _ _ => ⟨rfl, rfl, rfl, rfl, rfl⟩

end Sys2Proof.Machine

/-! The two `BRB` instructions, as events and as words, and the obligations on them (spec/47_brb_instructions.md). -/

namespace Sys2Proof.Machine

open Sys2Proof

/-! ### The instruction words do what their events do -/

theorem exec_brbIall {c : Context} {s : State} (h : s.port.ctx = c) :
    exec .brbIall s = handle (.brbIall c) s := by
  subst h; rfl

theorem exec_brbInj {c : Context} {s : State} (h : s.port.ctx = c) : exec .brbInj s = handle (.brbInj c) s := by
  subst h; rfl

/-! ### The guard outside a transaction (rules R154, R155, R161) -/

section
variable {s : State} {c : Context} (outside : s.txn = .none)
include outside

theorem guardedBrb_of_allowed {op : BrbOp} (h : brbAccessCheck s.params c op = .allowed) (effect : State → State) :
    guardedBrb op c effect s = effect s := by
  simp [guardedBrb, outside, h]

theorem guardedBrb_of_undefined {op : BrbOp} (h : brbAccessCheck s.params c op = .undefined)
    (effect : State → State) : guardedBrb op c effect s = report .undefinedInstruction s := by
  simp [guardedBrb, outside, h]

theorem guardedBrb_of_trap {op : BrbOp} {el : EL} (h : brbAccessCheck s.params c op = .trap el)
    (effect : State → State) : guardedBrb op c effect s = report (.systemInstructionTrap el) s := by
  simp [guardedBrb, outside, h]

theorem handle_brbIall_of_allowed (h : brbAccessCheck s.params c .brbIall = .allowed) :
    handle (.brbIall c) s = .next (invalidateAll s) :=
  congrArg Host.Outcome.next (guardedBrb_of_allowed outside h invalidateAll)

theorem handle_brbInj_of_allowed (h : brbAccessCheck s.params c .brbInj = .allowed) :
    handle (.brbInj c) s = .next (injectRecord s) :=
  congrArg Host.Outcome.next (guardedBrb_of_allowed outside h injectRecord)

end

/-! ### What can be observed after `BRB IALL` (rule R186) -/

theorem map_viewRecord_invalidated (p : Params) (k n : Nat) (rs : List Record) :
    (invalidated p k n rs).map viewRecord = List.replicate rs.length .invalid := by
  rw [List.eq_replicate_iff]
  refine ⟨by simp, fun v hv => ?_⟩
  obtain ⟨r, hr, rfl⟩ := List.mem_map.mp hv
  simp [viewRecord, invalidated_valid p k n rs r hr]

theorem observe_invalidateAll (s : State) :
    observe (invalidateAll s) = (List.replicate s.records.length .invalid, s.lastFailed, s.written.paused) :=
  Prod.ext (map_viewRecord_invalidated ..) rfl

/-! ### The unknown count (spec/41_cycle_counting.md rules R91, R92) -/

theorem cycleFields_of_ccUnknown {s : State} (h : s.ccUnknown = true) : cycleFields s = (true, 0) := by
  simp [cycleFields, h]

/-- No operation outside the buffer makes an unknown count known. -/
theorem Op.ccUnknown {e : Event} {s t : State} (h : Op e s t) (hs : s.ccUnknown = true) : t.ccUnknown = true := by
  cases h with
  | sync | propagate | enter | move | moveToDebug => exact firstAfterCause_of_ccUnknown hs ..
  | freeze => exact freeze_keeps_ccUnknown hs
  | report | read | txnEnd => exact hs
  | write => rw [writeField_frame]; exact hs
  | txnStart => rw [txnStart_eq]; exact hs
  | txnFail =>
    obtain ⟨l, k, failed, -⟩ := txnFailOrCancel_spec s
    rw [failed]; exact hs
  | tick => rw [tick_eq]; exact hs

theorem Ops.ccUnknown {e : Event} {s t : State} (h : Ops e s t) (hs : s.ccUnknown = true) : t.ccUnknown = true :=
  h.keep (P := fun a => a.ccUnknown = true) (fun _ _ op => op.ccUnknown) hs

theorem captureValid_ne_zero (c : Capture) : captureValid c ≠ 0b00#2 := by
  cases c <;> simp [captureValid]

theorem newRecord_of_ccUnknown {s : State} (h : s.ccUnknown = true) (c : Capture) (type : BranchType)
    (mpred : Bool) : (newRecord c type mpred s).inf.ccu = true ∧ (newRecord c type mpred s).inf.cc = 0 := by
  simp [cycleFields_of_ccUnknown h]

/-- From `s` to `t` no record is generated and the count stays unknown; the buffer changes by the `BRB` instruction of
the event `e` alone. -/
structure StaysUnknown (e : Event) (s t : State) : Prop where
  ccUnknown : t.ccUnknown = true
  generated : t.free.record = s.free.record
  records : t.records = s.records ∨
    ((∃ c, e = .brbInj c) ∧ t.records = (s.injection :: s.records).take s.params.numrec) ∨
    ((∃ c, e = .brbIall c) ∧ t.records.length = s.records.length ∧ ∀ r ∈ t.records, r.inf.valid = 0b00#2)

/-- From `s` to `t` one valid record is generated, with an unknown count, which ends the cause where no freeze
event races. -/
def EndsUnknown (s t : State) : Prop :=
  ∃ r, t.records = (r :: s.records).take s.params.numrec ∧ r.inf.valid ≠ 0b00#2 ∧ r.inf.ccu = true ∧ r.inf.cc = 0 ∧
    t.free.record = s.free.record + 1 ∧ (s.params.freeze = .recalled → t.ccUnknown = false)

theorem Ops.staysUnknown {e : Event} {s t : State} (h : Ops e s t) (hs : s.ccUnknown = true) : StaysUnknown e s t :=
  ⟨h.ccUnknown hs, h.sameFrame.generated, .inl h.sameFrame.records⟩

/-- An event handled while the count is unknown leaves it so, or generates the record that ends the cause. -/
theorem unknown_of_handle {e : Event} {s t : State} (h : handle e s = .next t) (hs : s.ccUnknown = true) :
    StaysUnknown e s t ∨ (generates e = true ∧ EndsUnknown s t) := by
  obtain ⟨u, v, before, buffer, after, recalled⟩ := handles_of_handle h
  have known_u := before.ccUnknown hs
  cases buffer with
  | keep => exact .inl (Ops.staysUnknown (before.trans after) hs)
  | @generate type generating operand c mpred =>
    obtain ⟨ccu, cc⟩ := newRecord_of_ccUnknown known_u c type mpred
    refine .inr ⟨generating, newRecord c type mpred u, ?_, captureValid_ne_zero c, ccu, cc, ?_, ?_⟩
    · rw [after.sameFrame.records, generateRecord_records, before.sameFrame.params, before.sameFrame.records]
    · rw [after.sameFrame.generated, ← before.sameFrame.generated]; rfl
    · intro h; rw [recalled h]; rfl
  | @invalidate c isIall =>
    subst isIall
    cases h
    obtain allowed | instead := guardedBrb_effect_or_ops (.brbIall c) .brbIall c invalidateAll s
    · rw [brbIall, allowed]
      exact .inl ⟨rfl, rfl, .inr (.inr ⟨⟨c, rfl⟩, invalidated_length .., invalidated_valid _ _ _ _⟩)⟩
    · exact .inl (Ops.staysUnknown instead hs)
  | @inject c isInj =>
    subst isInj
    cases h
    obtain allowed | instead := guardedBrb_effect_or_ops (.brbInj c) .brbInj c injectRecord s
    · rw [brbInj, allowed]
      exact .inl ⟨hs, rfl, .inr (.inl ⟨⟨c, rfl⟩, rfl⟩)⟩
    · exact .inl (Ops.staysUnknown instead hs)

theorem not_brb_of_generates {e : Event} (h : generates e = true) :
    (¬ ∃ c, e = .brbInj c) ∧ ¬ ∃ c, e = .brbIall c := by
  constructor <;> rintro ⟨c, rfl⟩ <;> cases h

/-! ### The obligations -/

/-- Settles O16. -/
theorem brbIallInvalidatesEveryRecord : Obligations.BrbIallInvalidatesEveryRecord := by
  intro c s outside allowed
  have effect := handle_brbIall_of_allowed outside allowed
  exact ⟨invalidateAll s, _, effect, fun h => (exec_brbIall h).trans effect, rfl, invalidated_length ..,
    invalidated_valid _ _ _ _⟩

/-- Settles O17: the second `BRB IALL` is permitted as the first was, and leaves as many invalid records. -/
theorem afterBrbIallNothingIsObservable : Obligations.AfterBrbIallNothingIsObservable := by
  intro c s outside allowed
  have effect := handle_brbIall_of_allowed outside allowed
  have again : handle (.brbIall c) (invalidateAll s) = .next (invalidateAll (invalidateAll s)) :=
    handle_brbIall_of_allowed (s := invalidateAll s) outside allowed
  have words (h : s.port.ctx = c) : exec .brbIall s = .next (invalidateAll s) ∧
      exec .brbIall (invalidateAll s) = .next (invalidateAll (invalidateAll s)) :=
    ⟨(exec_brbIall h).trans effect, (exec_brbIall (s := invalidateAll s) h).trans again⟩
  refine ⟨_, _, effect, again, words, observe_invalidateAll s, ?_, rfl⟩
  simp [observe_invalidateAll]

/-- Settles O18: the flag is followed through every operation of an event. -/
theorem firstRecordAfterBrbIallHasUnknownCount : Obligations.FirstRecordAfterBrbIallHasUnknownCount := by
  refine ⟨fun c s outside allowed => ?_, fun s t hs h => ?_⟩
  · have effect := handle_brbIall_of_allowed outside allowed
    exact ⟨invalidateAll s, effect, fun h => (exec_brbIall h).trans effect, rfl⟩
  · obtain rfl | ⟨e, rest, port, delivered, handled⟩ := step_next_event h
    · exact .inl ⟨hs, rfl, .inl rfl⟩
    obtain ⟨deliversIall, deliversInj⟩ := delivered.deliversBrb_iff
    rw [deliversIall, deliversInj]
    obtain ⟨ccUnknown, generated, records⟩ | ⟨generating, ends⟩ := unknown_of_handle handled hs
    · exact .inl ⟨ccUnknown, generated, records⟩
    · exact .inr ⟨(not_brb_of_generates generating).1, (not_brb_of_generates generating).2, ends⟩

/-- Settles O19. -/
theorem brbInjPushesTheInjectionSource : Obligations.BrbInjPushesTheInjectionSource := by
  intro c s outside allowed numrec_pos
  have effect := handle_brbInj_of_allowed outside allowed
  refine ⟨injectRecord s, _, effect, fun h => (exec_brbInj h).trans effect, rfl, ?_, fun n hn => ?_, ?_⟩
  · rw [List.getElem?_take_of_lt numrec_pos]; rfl
  · rw [List.getElem?_take_of_lt hn]; rfl
  · rw [List.length_take]; exact Nat.min_le_left ..

/-- Settles O21: the guard's answer outside a transaction, by the answer of the access check. -/
theorem brbFollowsTheAccessCheck : Obligations.BrbFollowsTheAccessCheck := by
  intro c s outside answer
  have guarded : ∀ op (effect : State → State), guardedBrb op c effect s = answer op (effect s) := by
    intro op effect
    cases hop : brbAccessCheck s.params c op with
    | allowed => simp only [guardedBrb_of_allowed outside hop, answer, hop]
    | undefined => simp only [guardedBrb_of_undefined outside hop, answer, hop]; rfl
    | trap el => simp only [guardedBrb_of_trap outside hop, answer, hop]; rfl
  have iall : handle (.brbIall c) s = .next (answer .brbIall (invalidateAll s)) := by rw [← guarded]; rfl
  have inj : handle (.brbInj c) s = .next (answer .brbInj (injectRecord s)) := by rw [← guarded]; rfl
  exact ⟨invalidateAll s, injectRecord s, rfl, rfl, iall, inj,
    fun h => ⟨(exec_brbIall h).trans iall, (exec_brbInj h).trans inj⟩⟩

end Sys2Proof.Machine

/-! Taken branches and clock cycles, and the obligations on them (spec/40_branch_records.md to
spec/43_prohibited_regions.md). -/

namespace Sys2Proof.Machine

open Sys2Proof

/-! ### When a taken branch is recorded (rule R73) -/

theorem isFiltered_of_paused {s : State} (h : s.synced.paused = true) (e : Event) : isFiltered e s = true := by
  simp [isFiltered, h]

/-- With the recalled filter `PAUSED` alone filters (decision D8). -/
theorem isFiltered_recalled {s : State} (h : s.params.filter = .recalled) (e : Event) :
    isFiltered e s = s.synced.paused := by
  simp [isFiltered, h]

theorem takenBranch_of_suppressed {b : BranchEvent} {s : State}
    (h : prohibited s.params s.synced b.ctx = true ∨ isFiltered (.takenBranch b) s = true) : takenBranch b s = s := by
  rcases h with h | h <;> simp [takenBranch, h]

/-- What a taken branch that is recorded leaves. -/
def recordedBranch (b : BranchEvent) (s : State) : State :=
  generateRecord (.full b.src b.tgt b.ctx.el) b.type (branchMPred s.params s.synced b.mispredicted) s

theorem takenBranch_of_recalled {b : BranchEvent} {s : State} (outside : prohibited s.params s.synced b.ctx = false)
    (filter : s.params.filter = .recalled) (unpaused : s.synced.paused = false) :
    takenBranch b s = recordedBranch b s := by
  simp [takenBranch, outside, isFiltered_recalled filter, unpaused, recordedBranch]

theorem takenBranch_eq_or (b : BranchEvent) (s : State) : takenBranch b s = recordedBranch b s ∨ takenBranch b s = s :=
  (takenBranch_cases b s).elim (fun h => .inr h.2) fun h => .inl h.2.2

/-! ### The obligations on taken branches -/

/-- Settles O41. -/
theorem takenBranchPushesAFullRecord : Obligations.TakenBranchPushesAFullRecord := by
  intro b s outside
  have completes : handle (.takenBranch b) s = .next (recordedBranch b s) ∨ handle (.takenBranch b) s = .next s :=
    (takenBranch_eq_or b s).imp (congrArg Host.Outcome.next) (congrArg Host.Outcome.next)
  exact ⟨recordedBranch b s, newRecord (.full b.src b.tgt b.ctx.el) b.type _ s, completes,
    fun filter unpaused => congrArg Host.Outcome.next (takenBranch_of_recalled outside filter unpaused), rfl, rfl, rfl,
    rfl, stripTag_of_noTag, fun recalled i => stripTag_recalled_getLsbD recalled, rfl, rfl, rfl, branchMPred_eq ..⟩

/-- Settles O42. -/
theorem suppressedBranchChangesNothing : Obligations.SuppressedBranchChangesNothing :=
  fun _ _ h =>
    congrArg Host.Outcome.next (takenBranch_of_suppressed (h.imp_right fun paused => isFiltered_of_paused paused _))

/-- Settles O43: the record of a branch that changes the state is counted as `GenerateRecord` counts. -/
theorem cycleCountIsUnknownSaturatedOrEncoded : Obligations.CycleCountIsUnknownSaturatedOrEncoded := by
  intro b s t h changed
  obtain rfl : takenBranch b s = t := Host.Outcome.next.inj h
  obtain recorded | suppressed := takenBranch_eq_or b s
  · obtain ⟨unknown, saturated, encoded⟩ := counted_newRecord (.full b.src b.tgt b.ctx.el) b.type
      (branchMPred s.params s.synced b.mispredicted) s
    rw [recorded]
    exact ⟨_, rfl, unknown, fun cc1 cc2 known => ⟨saturated cc1 cc2 known, encoded cc1 cc2 known⟩⟩
  · exact absurd suppressed changed

/-! ### The clock and runs in a Prohibited region -/

/-- Settles O46. -/
theorem theCounterCountsActiveCycles : Obligations.TheCounterCountsActiveCycles := by
  refine fun s => ⟨rfl, rfl, fun single rest next => ?_⟩
  exact step_of_illegal next (by simp [Input.illegal, Event.illegal, single])

theorem run_succ_of_step {s t : State} (h : step s = .next t) (k : Nat) : core.run (k + 1) s = core.run k t := by
  have core_step : core.step s = .next t := h
  simp only [Host.Core.run, core_step]

/-- A clock cycle, or a taken branch of a Prohibited region, leaves the clock alone changed, if that. -/
theorem step_of_prohibited {s : State} {e : Event} {rest : List Input}
    (he : e = .tick true ∨ ∃ b, e = .takenBranch b ∧ e.illegal s.params = none ∧
      prohibited s.params s.synced b.ctx = true) :
    step { s with inputs := .event e :: rest } =
      .next { s with inputs := rest, cyc := s.cyc + if e = .tick true then 1 else 0 } := by
  have dispatched (legal : e.illegal s.params = none) :
      step { s with inputs := .event e :: rest } = handle e { s with inputs := rest } :=
    step_event (s := { s with inputs := .event e :: rest }) rfl legal
  obtain rfl | ⟨b, rfl, legal, inside⟩ := he
  · exact dispatched rfl
  · exact (dispatched legal).trans (congrArg Host.Outcome.next (takenBranch_of_suppressed (.inl inside)))

/-- Settles O49, by induction on the events. -/
theorem prohibitedExecutionLeavesOnlyTheClock : Obligations.ProhibitedExecutionLeavesOnlyTheClock := by
  intro s q rest hq
  induction q generalizing s with
  | nil => rfl
  | cons e q ih =>
    have first := step_of_prohibited (rest := q.map .event ++ rest) (hq e List.mem_cons_self)
    have others := ih { s with cyc := s.cyc + if e = .tick true then 1 else 0 }
      fun x hx => hq x (List.mem_cons_of_mem e hx)
    refine ((run_succ_of_step first q.length).trans others).trans ?_
    simp only [List.count_cons, beq_iff_eq, Nat.add_assoc, Nat.add_comm]

end Sys2Proof.Machine

/-! Context synchronization, `Propagate`, the freeze event and the start of a transaction, and the obligations on them
(spec/20_memory.md, spec/46_tme_and_speculation.md, spec/47_brb_instructions.md). -/

namespace Sys2Proof.Machine

open Sys2Proof

/-! ### `Rebook` (spec/41_cycle_counting.md rule R96) -/

/-- `Rebook` after a change of the controls alone: the flag, the region and the transaction's class follow. -/
theorem rebook_synced_eq (s : State) (v : Controls) :
    rebook s.synced { s with synced := v } =
      { s with
        synced := v
        inProhibited := prohibited s.params v s.ctx
        ccUnknown := firstAfterCause s v s.ctx
        txn := if s.inProhibited = prohibited s.params v s.ctx then s.txn else mixTxn s.txn } := by
  simp [rebook, firstAfterCause]

/-- With nothing new to see and the region as remembered, nothing is the first after a cause. -/
theorem firstAfterCause_self {s : State} (region : s.inProhibited = prohibited s.params s.synced s.ctx) :
    firstAfterCause s s.synced s.ctx = s.ccUnknown := by
  simp [firstAfterCause, ← region]

/-- `Rebook` has nothing to do where the region is the remembered one and the controls are as they were. -/
theorem rebook_self {s : State} (region : s.inProhibited = prohibited s.params s.synced s.ctx) :
    rebook s.synced s = s := by
  refine (rebook_synced_eq s s.synced).trans ?_
  simp [← region, firstAfterCause_self region]

/-! ### The control fields one by one -/

theorem toNat_bool_inj {a b : Bool} : a.toNat = b.toNat ↔ a = b :=
  (Function.LeftInverse.injective Bool.ofNat_toNat).eq_iff

/-- The fields are all there is in a view of the controls. -/
theorem controls_ext {v w : Controls} (h : ∀ f, controlField v f = controlField w f) : v = w := by
  obtain ⟨⟨_, _, _, _, _, _⟩, ⟨_, _, _, _, _, _⟩, _, ⟨_, _, _⟩, _⟩ := v
  obtain ⟨⟨_, _, _, _, _, _⟩, ⟨_, _, _, _, _, _⟩, _, ⟨_, _, _⟩, _⟩ := w
  simp only [Controls.mk.injEq, BrbcrEl1.mk.injEq, BrbcrEl2.mk.injEq, MdcrEl3.mk.injEq]
  simp only [← toNat_bool_inj, ← BitVec.toNat_inj]
  exact ⟨⟨h .e0bre, h .e1bre, h .cc1, h .mpred1, h .exception1, h .ertn1⟩,
    ⟨h .e0hbre, h .e2bre, h .cc2, h .mpred2, h .exception2, h .ertn2⟩, h .paused, ⟨h .sbrbe, h .e3brec, h .e3brew⟩,
    h .tge⟩

/-- `copyField` copies the field it names and leaves the others. -/
theorem controlField_copyField (f g : ControlField) (w v : Controls) :
    controlField (copyField f w v) g = if g = f then controlField w g else controlField v g := by
  cases f <;> cases g <;> rfl

/-- A field that has been propagated, once or more, is the one written; another is as it was. -/
theorem controlField_foldl_propagate (fs : List ControlField) (g : ControlField) (s : State) :
    controlField (fs.foldl (fun t f => propagate f t) s).synced g =
      if g ∈ fs then controlField s.written g else controlField s.synced g := by
  induction fs generalizing s with
  | nil => rfl
  | cons f fs ih =>
    rw [List.foldl_cons, ih, propagate_written, propagate_synced, controlField_copyField]
    by_cases hgf : g = f <;> simp [hgf]

/-! ### The PE's moves, in the terms that claims use -/

theorem moved_enterContext (c : Context) (s : State) : Moved s (enterContext c s) s.written c := by
  constructor <;> simp

theorem moved_moveTo (c : Context) (s : State) : Moved s (moveTo c s) s.synced c := by
  constructor <;> simp

theorem nothingGenerated_enterContext (c : Context) (s : State) : NothingGenerated s (enterContext c s) :=
  ⟨rfl, rfl, rfl, rfl, rfl⟩

theorem nothingGenerated_moveTo (c : Context) (s : State) : NothingGenerated s (moveTo c s) :=
  ⟨rfl, rfl, rfl, rfl, rfl⟩

/-! ### The obligations -/

/-- Settles O22. -/
theorem isbMakesEveryWriteVisible : Obligations.IsbMakesEveryWriteVisible :=
  fun _ _ => ⟨rfl, rfl⟩

/-- Settles O23: with no write pending the synchronization is a `Rebook` of the state as it is. -/
theorem isbWithNoPendingWriteChangesNothing : Obligations.IsbWithNoPendingWriteChangesNothing := by
  intro crm s inv quiescent
  have synchronized : contextSync s = rebook s.synced { s with synced := s.synced } :=
    congrArg (fun v => rebook s.synced { s with synced := v }) quiescent.symm
  exact congrArg Host.Outcome.next (synchronized.trans (rebook_self inv.region))

/-- Settles O24: the synchronization leaves a Prohibited region, a cause of an unknown count, and the branch is recorded
in the state it leaves. -/
theorem isbOpensTheRegionForTheNextBranch : Obligations.IsbOpensTheRegionForTheNextBranch := by
  intro crm s b filter current inside opens unpaused
  have unknown : (contextSync s).ccUnknown = true := by simp [firstAfterCause, inside, opens]
  have outside : prohibited (contextSync s).params (contextSync s).synced b.ctx = false := current ▸ opens
  obtain ⟨ccu, cc⟩ := newRecord_of_ccUnknown unknown (.full b.src b.tgt b.ctx.el) b.type
    (branchMPred s.params s.written b.mispredicted)
  exact ⟨contextSync s, recordedBranch b (contextSync s), _, rfl,
    congrArg Host.Outcome.next (takenBranch_of_recalled outside filter unpaused), generateRecord_spec .., rfl, rfl, ccu,
    cc⟩

/-- Settles O59: one field at a time by `copyField`, all of them by induction on their order. -/
theorem propagatingEveryFieldSynchronizes : Obligations.PropagatingEveryFieldSynchronizes := by
  refine ⟨fun f s => ?_, fun fs s every => controls_ext fun g => ?_⟩
  · exact ⟨copyField f s.written s.synced, congrArg Host.Outcome.next (rebook_synced_eq s _),
      (controlField_copyField ..).trans (if_pos rfl), fun g hg => (controlField_copyField ..).trans (if_neg hg)⟩
  · rw [controlField_foldl_propagate, if_pos (every g), contextSync_synced]

/-- Settles O60. -/
theorem freezeGeneratesNoRecord : Obligations.FreezeGeneratesNoRecord := by
  refine fun s => ⟨freeze s, rfl, rfl, rfl, freeze_keeps_ccUnknown, fun recalled => ?_⟩
  have outcome := freezeOutcome_recalled recalled
  refine ⟨by simp [outcome], ?moved, ?nothing⟩
  case moved => constructor <;> simp [outcome]
  case nothing => constructor <;> simp [outcome, firstAfterCause]

/-- Settles O52. -/
theorem transactionStartTakesItsRegion : Obligations.TransactionStartTakesItsRegion := by
  intro s
  refine ⟨fun outside inside => congrArg Host.Outcome.next ?_, fun outside notInside => congrArg Host.Outcome.next ?_,
    fun inTransaction => congrArg Host.Outcome.next (txnStart_of_transactional inTransaction),
    fun outside => congrArg Host.Outcome.next ?_, rfl⟩
  · simp [txnStart_eq, outside, inside]
  · simp [txnStart_eq, outside, notInside]
  · simp [txnFailOrCancel, outside]

end Sys2Proof.Machine

/-! What an exception and an exception return do, the one operation `transition`: under every parameter, and exactly
where the freeze event is the one that rule R160 recommends (spec/44_exception_records.md rule R128,
spec/45_exception_return_records.md rule R139). -/

namespace Sys2Proof.Machine

open Sys2Proof

/-! ### A record generated on entering a context -/

theorem Moved.generateRecord {s t : State} {v : Controls} {c : Context} (h : Moved s t v c) (cap : Capture)
    (type : BranchType) (mpred : Bool) : Moved s (generateRecord cap type mpred t) v c :=
  { h with }

theorem Moved.recordTransition {s t : State} {v : Controls} {c : Context} (h : Moved s t v c) (e : Event)
    (cap : Option Capture) (enabled : Bool) (type : BranchType) (mpred : Params → Controls → Bool) :
    Moved s (recordTransition e cap enabled type mpred t) v c := by
  obtain withheld | ⟨c, -, -, -, generated⟩ := recordTransition_cases e cap enabled type mpred t
  · rw [withheld]; exact h
  · rw [generated]; exact h.generateRecord ..

theorem generated_enterContext (toCtx : Context) (c : Capture) (type : BranchType) (mpred : Bool) (s : State) :
    Generated s (generateRecord c type mpred (enterContext toCtx s)) (newRecord c type mpred (enterContext toCtx s)) :=
  ⟨rfl, rfl, rfl, rfl, rfl⟩

/-- The count is that of the state before, the first after a cause if the move is one. -/
theorem counted_enterContext (toCtx : Context) (c : Capture) (type : BranchType) (mpred : Bool) (s : State) :
    Counted s s.written (firstAfterCause s s.written toCtx) (newRecord c type mpred (enterContext toCtx s)) := by
  obtain ⟨unknown, saturated, encoded⟩ := counted_newRecord c type mpred (enterContext toCtx s)
  exact ⟨unknown, saturated, encoded⟩

/-! ### Transitions -/

section
variable (e : Event) (fromCtx toCtx : Context) (src tgt : Addr) (type : BranchType)
  (enabled mpred : Params → Controls → Bool) (s : State)

/-- The PE is in the target context; its port, its delivery and what was handed back to it stay. -/
theorem transition_frame :
    (transition e fromCtx toCtx src tgt type enabled mpred s).ctx = toCtx ∧
      (transition e fromCtx toCtx src tgt type enabled mpred s).params = s.params ∧
      (transition e fromCtx toCtx src tgt type enabled mpred s).port = s.port ∧
      (transition e fromCtx toCtx src tgt type enabled mpred s).inputs = s.inputs ∧
      (transition e fromCtx toCtx src tgt type enabled mpred s).reports = s.reports := by
  obtain ⟨u, v, hu, hv, ht, -⟩ := transition_cases e fromCtx toCtx src tgt type enabled mpred s
  have entered : u.ctx = toCtx ∧ u.params = s.params ∧ u.port = s.port ∧ u.inputs = s.inputs ∧
      u.reports = s.reports := by
    rcases hu with rfl | rfl <;> exact ⟨rfl, rfl, rfl, rfl, rfl⟩
  have recorded : v.ctx = toCtx ∧ v.params = s.params ∧ v.port = s.port ∧ v.inputs = s.inputs ∧
      v.reports = s.reports := by
    rcases hv with rfl | ⟨c, -, -, -, rfl⟩ <;> exact entered
  rcases ht with ht | ht <;> rw [ht] <;> exact recorded

/-- What a transition does to the buffer under every parameter: nothing, or the push of the record of its capture, if
it is enabled on the new controls. The record is built in a state `u`, which a racing freeze event may precede, and has
an unknown count if it is the first after a cause. -/
theorem transition_records :
    (transition e fromCtx toCtx src tgt type enabled mpred s).records = s.records ∨
      ∃ c u, captureOf (sourceProhibited fromCtx s) (prohibited s.params s.written toCtx) src tgt toCtx.el = some c ∧
        enabled s.params s.written = true ∧ u.params = s.params ∧
        (firstAfterCause s s.written toCtx = true → u.ccUnknown = true) ∧
        (transition e fromCtx toCtx src tgt type enabled mpred s).records =
          (newRecord c type (mpred s.params u.synced) u :: s.records).take s.params.numrec := by
  obtain ⟨u, v, hu, hv, ht, -⟩ := transition_cases e fromCtx toCtx src tgt type enabled mpred s
  have records : u.records = s.records := by rcases hu with rfl | rfl <;> rfl
  have params : u.params = s.params := by rcases hu with rfl | rfl <;> rfl
  have unknown (first : firstAfterCause s s.written toCtx = true) : u.ccUnknown = true := by
    rcases hu with rfl | rfl
    · exact first
    · exact freeze_keeps_ccUnknown first
  have unfrozen : (transition e fromCtx toCtx src tgt type enabled mpred s).records = v.records := by
    rcases ht with ht | ht <;> rw [ht]
    rfl
  rcases hv with rfl | ⟨c, capture, en, -, rfl⟩
  · exact .inl (unfrozen.trans records)
  · exact .inr ⟨c, u, capture, en, params, unknown, by rw [unfrozen, generateRecord_records, params, records]⟩

end

/-! ### Transitions with the freeze event of rule R160 -/

/-- A record is withheld only where its level does not enable it, where the unit sees `PAUSED`, or where an open filter
may answer so (spec/40_branch_records.md rule R75). -/
def MayWithhold (enabled : Bool) (s : State) : Prop :=
  enabled = false ∨ s.written.paused = true ∨ s.params.filter = .unspecified

theorem mayWithhold_of_isFiltered {e : Event} {toCtx : Context} {s : State}
    (h : isFiltered e (enterContext toCtx s) = true) (enabled : Bool) : MayWithhold enabled s := by
  cases hf : s.params.filter with
  | unspecified => exact .inr (.inr hf)
  | recalled => exact .inr (.inl ((isFiltered_recalled (s := enterContext toCtx s) hf e).symm.trans h))

section
variable {e : Event} {fromCtx toCtx : Context} {src tgt : Addr} {type : BranchType}
  {enabled mpred : Params → Controls → Bool} {s : State} (recalled : s.params.freeze = .recalled)
include recalled

theorem transition_of_no_capture
    (h : captureOf (sourceProhibited fromCtx s) (prohibited s.params s.written toCtx) src tgt toCtx.el = none) :
    transition e fromCtx toCtx src tgt type enabled mpred s = enterContext toCtx s := by
  rw [transition_recalled recalled, h]
  rfl

theorem transition_of_withheld (h : enabled s.params s.written = false ∨ s.written.paused = true) :
    transition e fromCtx toCtx src tgt type enabled mpred s = enterContext toCtx s := by
  rw [transition_recalled recalled]
  exact recordTransition_withheld (h.imp_right fun paused => isFiltered_of_paused paused _) ..

theorem transition_of_capture {c : Capture}
    (h : captureOf (sourceProhibited fromCtx s) (prohibited s.params s.written toCtx) src tgt toCtx.el = some c) :
    (MayWithhold (enabled s.params s.written) s ∧
      transition e fromCtx toCtx src tgt type enabled mpred s = enterContext toCtx s) ∨
    transition e fromCtx toCtx src tgt type enabled mpred s =
      generateRecord c type (mpred s.params s.written) (enterContext toCtx s) := by
  rw [transition_recalled recalled, h]
  cases hen : enabled s.params s.written with
  | false => exact .inl ⟨.inl rfl, recordTransition_withheld (.inl rfl) ..⟩
  | true =>
    cases hf : isFiltered e (enterContext toCtx s) with
    | true => exact .inl ⟨mayWithhold_of_isFiltered hf true, recordTransition_withheld (.inr hf) ..⟩
    | false => exact .inr (by simp [recordTransition, hf])

/-- Either nothing changes on account of a record or one is generated. -/
theorem transition_nothing_or_generated :
    NothingGenerated s (transition e fromCtx toCtx src tgt type enabled mpred s) ∨
      ∃ r, Generated s (transition e fromCtx toCtx src tgt type enabled mpred s) r := by
  rw [transition_recalled recalled]
  obtain withheld | ⟨c, -, -, -, generated⟩ := recordTransition_cases e
    (captureOf (sourceProhibited fromCtx s) (prohibited s.params s.written toCtx) src tgt toCtx.el)
    (enabled s.params s.written) type mpred (enterContext toCtx s)
  · rw [withheld]; exact .inl (nothingGenerated_enterContext ..)
  · rw [generated]; exact .inr ⟨_, generated_enterContext ..⟩

/-- Recorded or not, the PE moves and synchronizes. -/
theorem moved_transition :
    Moved s (transition e fromCtx toCtx src tgt type enabled mpred s) s.written toCtx := by
  rw [transition_recalled recalled]
  exact (moved_enterContext ..).recordTransition ..

theorem transition_outcome {c : Capture}
    (h : captureOf (sourceProhibited fromCtx s) (prohibited s.params s.written toCtx) src tgt toCtx.el = some c) :
    (MayWithhold (enabled s.params s.written) s ∧
      NothingGenerated s (transition e fromCtx toCtx src tgt type enabled mpred s)) ∨
    ∃ x, x = newRecord c type (mpred s.params s.written) (enterContext toCtx s) ∧
      Generated s (transition e fromCtx toCtx src tgt type enabled mpred s) x ∧
      Counted s s.written (firstAfterCause s s.written toCtx) x := by
  obtain ⟨may, withheld⟩ | generated := transition_of_capture (e := e) (type := type) (enabled := enabled)
    (mpred := mpred) recalled h
  · rw [withheld]; exact .inl ⟨may, nothingGenerated_enterContext ..⟩
  · rw [generated]; exact .inr ⟨_, rfl, generated_enterContext .., counted_enterContext ..⟩

/-- The record of a transition by its two regions: none, Half-target, Half-source or Full, with its meaningful fields
(spec/40_branch_records.md rule R71). -/
theorem transition_by_regions :
    (sourceProhibited fromCtx s = true → prohibited s.params s.written toCtx = true →
      NothingGenerated s (transition e fromCtx toCtx src tgt type enabled mpred s)) ∧
    (sourceProhibited fromCtx s = true → prohibited s.params s.written toCtx = false →
      (MayWithhold (enabled s.params s.written) s ∧
        NothingGenerated s (transition e fromCtx toCtx src tgt type enabled mpred s)) ∨
      ∃ x, Generated s (transition e fromCtx toCtx src tgt type enabled mpred s) x ∧ x.inf.valid = 0b01#2 ∧
        x.tgt = stripTag s.params tgt ∧ x.inf.el = toCtx.el.bits ∧ x.inf.type = type ∧
        x.inf.mpred = mpred s.params s.written ∧ Counted s s.written (firstAfterCause s s.written toCtx) x) ∧
    (sourceProhibited fromCtx s = false → prohibited s.params s.written toCtx = true →
      (MayWithhold (enabled s.params s.written) s ∧
        NothingGenerated s (transition e fromCtx toCtx src tgt type enabled mpred s)) ∨
      ∃ x, Generated s (transition e fromCtx toCtx src tgt type enabled mpred s) x ∧ x.inf.valid = 0b10#2 ∧
        x.src = src ∧ x.inf.type = type ∧ x.inf.mpred = mpred s.params s.written ∧
        Counted s s.written (firstAfterCause s s.written toCtx) x) ∧
    (sourceProhibited fromCtx s = false → prohibited s.params s.written toCtx = false →
      (MayWithhold (enabled s.params s.written) s ∧
        NothingGenerated s (transition e fromCtx toCtx src tgt type enabled mpred s)) ∨
      ∃ x, Generated s (transition e fromCtx toCtx src tgt type enabled mpred s) x ∧ x.inf.valid = 0b11#2 ∧
        x.src = src ∧ x.tgt = stripTag s.params tgt ∧ x.inf.el = toCtx.el.bits ∧ x.inf.type = type ∧
        x.inf.mpred = mpred s.params s.written ∧ Counted s s.written (firstAfterCause s s.written toCtx) x) := by
  refine ⟨fun source target => ?none, fun source target => ?halfTarget, fun source target => ?halfSource,
    fun source target => ?full⟩
  case none =>
    rw [transition_of_no_capture recalled (by rw [source, target]; rfl)]
    exact nothingGenerated_enterContext ..
  case halfTarget =>
    refine (transition_outcome recalled (c := .halfTarget tgt toCtx.el) (by rw [source, target]; rfl)).imp_right ?_
    rintro ⟨_, rfl, generated, counted⟩
    exact ⟨_, generated, rfl, rfl, rfl, rfl, rfl, counted⟩
  case halfSource =>
    refine (transition_outcome recalled (c := .halfSource src) (by rw [source, target]; rfl)).imp_right ?_
    rintro ⟨_, rfl, generated, counted⟩
    exact ⟨_, generated, rfl, rfl, rfl, rfl, counted⟩
  case full =>
    refine (transition_outcome recalled (c := .full src tgt toCtx.el) (by rw [source, target]; rfl)).imp_right ?_
    rintro ⟨_, rfl, generated, counted⟩
    exact ⟨_, generated, rfl, rfl, rfl, rfl, rfl, rfl, counted⟩

end

end Sys2Proof.Machine

/-! The obligations on exceptions and exception returns (spec/44_exception_records.md,
spec/45_exception_return_records.md). -/

namespace Sys2Proof.Machine

open Sys2Proof

/-! ### Captures -/

/-- A source that is not Prohibited is captured. -/
theorem captureOf_source_not_prohibited {tp : Bool} {src tgt : Addr} {el : EL} {c : Capture}
    (h : captureOf false tp src tgt el = some c) : captureValid c ≠ 0b01#2 := by
  cases tp <;> cases h <;> simp [captureValid]

/-- A target that is not Prohibited is captured. -/
theorem captureOf_target_not_prohibited {sp : Bool} {src tgt : Addr} {el : EL} {c : Capture}
    (h : captureOf sp false src tgt el = some c) : captureValid c ≠ 0b10#2 := by
  cases sp <;> cases h <;> simp [captureValid]

theorem captureOf_source_prohibited {tp : Bool} {src tgt : Addr} {el : EL} {c : Capture}
    (h : captureOf true tp src tgt el = some c) : tp = false ∧ c = .halfTarget tgt el := by
  cases tp <;> cases h
  exact ⟨rfl, rfl⟩

/-- Within one region only a Full record is possible. -/
theorem captureOf_same {b : Bool} {src tgt : Addr} {el : EL} {c : Capture}
    (h : captureOf b b src tgt el = some c) : c = .full src tgt el := by
  cases b <;> cases h
  rfl

/-- With no write pending the source side is judged on the one view there is. -/
theorem sourceProhibited_of_quiescent {s : State} (h : Quiescent s) (c : Context) :
    sourceProhibited c s = prohibited s.params s.written c :=
  sourceProhibited_of_eq (by rw [h]) rfl

/-- Where EL3 records, it is no Prohibited region in AArch64 state outside Debug state. -/
theorem prohibited_of_el3_enabled {p : Params} {v : Controls} {c : Context} (hel : c.el = .el3)
    (h32 : c.aarch32 = false) (hd : c.debug = false) (enabled : exceptionEnabled p v c.el = true) :
    prohibited p v c = false := by
  rw [hel] at enabled
  rw [prohibited_el3 hel h32 hd]
  exact congrArg (! ·) enabled

/-! ### Exceptions -/

theorem takeException_frame (e : ExceptionEvent) (s : State) :
    (takeException e s).ctx = e.toCtx ∧ (takeException e s).params = s.params ∧ (takeException e s).port = s.port ∧
      (takeException e s).inputs = s.inputs ∧ (takeException e s).reports = s.reports :=
  transition_frame ..

/-- The record of an exception under every parameter. -/
theorem takeException_records (e : ExceptionEvent) (s : State) :
    (takeException e s).records = s.records ∨
      ∃ c u, captureOf (sourceProhibited e.fromCtx s) (prohibited s.params s.written e.toCtx) e.prefRet e.vector
          e.toCtx.el = some c ∧
        exceptionEnabled s.params s.written e.toCtx.el = true ∧ u.params = s.params ∧
        (firstAfterCause s s.written e.toCtx = true → u.ccUnknown = true) ∧
        (takeException e s).records = (newRecord c e.type exceptionMPred u :: s.records).take s.params.numrec :=
  transition_records ..

/-- Settles O34: with the freeze event of rule R160 by the two regions, under every parameter by the record of the
capture. -/
theorem exceptionRecordsByItsRegions : Obligations.ExceptionRecordsByItsRegions := by
  refine ⟨fun e s recalled => ?_, fun e s => ?_⟩
  · have moved : Moved s (takeException e s) s.written e.toCtx := moved_transition recalled
    refine ⟨sourceProhibited e.fromCtx s, takeException e s, sourceProhibited_cases .., rfl, moved,
      fun withheld => ?_, ?_⟩
    · rw [takeException, transition_of_withheld recalled withheld]
      exact nothingGenerated_enterContext ..
    · rw [moved.region, moved.ctx]
      exact transition_by_regions recalled
  · obtain ⟨ctx, params, port, inputs, reports⟩ := takeException_frame e s
    refine ⟨takeException e s, rfl, ctx, params, port, inputs, reports, (takeException_records e s).imp_right ?_⟩
    rintro ⟨c, u, capture, enabled, hu, -, records⟩
    exact ⟨_, c, _, sourceProhibited_cases .., capture, enabled, records, rfl,
      hu ▸ validHalves_newRecord capture e.type exceptionMPred u, rfl, rfl⟩

/-- Settles O37. -/
theorem disabledExceptionGeneratesNothing : Obligations.DisabledExceptionGeneratesNothing := by
  intro e s disabled
  refine ⟨takeException e s, rfl, ?_, fun recalled => ⟨?_, moved_transition recalled⟩⟩
  · by_contra changed
    simp [takeException_records_changed changed] at disabled
  · rw [takeException, transition_of_withheld recalled (.inl disabled)]
    exact nothingGenerated_enterContext ..

/-- Settles O38: an exception to EL3 is recorded only where EL3 records, and then its target is no Prohibited region. -/
theorem exceptionToEL3IsNeverHalfSource : Obligations.ExceptionToEL3IsNeverHalfSource := by
  intro e s t hel h32 hd h changed
  obtain rfl : takeException e s = t := Host.Outcome.next.inj h
  obtain unchanged | ⟨c, u, capture, enabled, -, -, records⟩ := takeException_records e s
  · exact absurd unchanged changed
  · rw [prohibited_of_el3_enabled hel h32 hd enabled] at capture
    exact ⟨_, records, captureOf_target_not_prohibited capture⟩

/-! ### Exception returns -/

theorem loadedCtx_of_illegal {r : ReturnEvent} (h : r.kind = .illegal) : loadedCtx r = r.fromCtx := by
  simp [loadedCtx, h]

theorem loadedCtx_of_ne_illegal {r : ReturnEvent} (h : r.kind ≠ .illegal) : loadedCtx r = r.toCtx := by
  unfold loadedCtx
  split
  · rfl
  · rfl
  · contradiction

theorem branchMPred_of_not_mispredicted (p : Params) (v : Controls) : branchMPred p v false = false := by
  simp [branchMPred_eq]

theorem returnFromException_frame (r : ReturnEvent) (s : State) :
    (returnFromException r s).ctx = loadedCtx r ∧ (returnFromException r s).params = s.params ∧
      (returnFromException r s).port = s.port ∧ (returnFromException r s).inputs = s.inputs ∧
      (returnFromException r s).reports = s.reports :=
  transition_frame ..

/-- The record of an exception return under every parameter. -/
theorem returnFromException_records (r : ReturnEvent) (s : State) :
    (returnFromException r s).records = s.records ∨
      ∃ c u, captureOf (sourceProhibited r.fromCtx s) (prohibited s.params s.written (loadedCtx r)) r.src r.tgt
          (loadedCtx r).el = some c ∧
        returnEnabled s.params s.written r.fromCtx.el = true ∧ u.params = s.params ∧
        (firstAfterCause s s.written (loadedCtx r) = true → u.ccUnknown = true) ∧
        (returnFromException r s).records =
          (newRecord c r.type (branchMPred s.params u.synced r.mispredicted) u :: s.records).take s.params.numrec :=
  transition_records ..

/-- Settles O25. -/
theorem eretCompletesAboveEL0 : Obligations.EretCompletesAboveEL0 := by
  intro s hel
  obtain ⟨ctx, params, port, inputs, reports⟩ := returnFromException_frame (portReturn s) s
  refine ⟨returnFromException (portReturn s) s, execEret_eq hel, rfl, ctx,
    fun legal => ctx.trans (loadedCtx_of_ne_illegal legal), fun illegal => ctx.trans (loadedCtx_of_illegal illegal),
    params, port, inputs, reports, fun recalled => ?_, (returnFromException_records ..).imp_right ?_⟩
  · have moved : Moved s (returnFromException (portReturn s) s) s.written (loadedCtx (portReturn s)) :=
      moved_transition recalled
    exact ⟨moved.rest1, moved.rest2, moved.injection⟩
  · rintro ⟨c, u, capture, enabled, hu, -, records⟩
    rw [ctx]
    refine ⟨_, c, _, sourceProhibited_cases .., capture, enabled, records, rfl,
      hu ▸ validHalves_newRecord capture s.port.type _ u, rfl, fun notMispredicted => ?_⟩
    simp [portReturn, notMispredicted, branchMPred_of_not_mispredicted]

/-- Settles O26. -/
theorem eretRecordsByItsRegions : Obligations.EretRecordsByItsRegions := by
  intro r s hel recalled
  have moved : Moved s (returnFromException r s) s.written (loadedCtx r) := moved_transition recalled
  refine ⟨sourceProhibited r.fromCtx s, returnFromException r s, sourceProhibited_cases .., rfl,
    exec_eret_of_portReturn hel, moved, fun withheld => ?_, ?_⟩
  · rw [returnFromException, transition_of_withheld recalled withheld]
    exact nothingGenerated_enterContext ..
  · rw [moved.region, moved.ctx]
    exact transition_by_regions recalled

/-- Settles O29. -/
theorem disabledEretGeneratesNothing : Obligations.DisabledEretGeneratesNothing := by
  intro r s hel disabled
  refine ⟨returnFromException r s, rfl, exec_eret_of_portReturn hel, ?_,
    fun recalled => ⟨?_, moved_transition recalled⟩⟩
  · by_contra changed
    simp [returnFromException_records_changed changed] at disabled
  · rw [returnFromException, transition_of_withheld recalled (.inl disabled)]
    exact nothingGenerated_enterContext ..

/-- Settles O30: source and target are one context, in one view of the controls. -/
theorem illegalReturnStaysInItsContext : Obligations.IllegalReturnStaysInItsContext := by
  intro r s hel illegal
  have stays := loadedCtx_of_illegal illegal
  obtain ⟨ctx, -⟩ := returnFromException_frame r s
  refine ⟨returnFromException r s, rfl, exec_eret_of_portReturn hel, ctx.trans stays,
    fun quiescent => (returnFromException_records r s).imp_right ?_⟩
  rintro ⟨c, u, capture, -, -, -, records⟩
  rw [stays, sourceProhibited_of_quiescent quiescent] at capture
  obtain rfl := captureOf_same capture
  exact ⟨_, records, rfl, rfl⟩

/-- Settles O31. -/
theorem eretAtEL0IsRefused : Obligations.EretAtEL0IsRefused :=
  fun _ => exec_eret_el0

/-- Settles O32: a return from EL3 is recorded only where EL3 records, and then its source is no Prohibited region. -/
theorem eretFromEL3IsNeverHalfTarget : Obligations.EretFromEL3IsNeverHalfTarget := by
  intro r s t hel h32 hd quiescent h changed
  obtain rfl := eq_returnFromException h
  obtain unchanged | ⟨c, u, capture, enabled, -, -, records⟩ := returnFromException_records r s
  · exact absurd unchanged changed
  · have outside : prohibited s.params s.written r.fromCtx = false :=
      prohibited_of_el3_enabled hel h32 hd (by rw [hel] at enabled ⊢; exact returnEnabled_el3 .. ▸ enabled)
    rw [sourceProhibited_of_quiescent quiescent, outside] at capture
    exact ⟨_, records, captureOf_source_not_prohibited capture⟩

/-- Settles O33: the move out of the Prohibited region is a cause of an unknown count, and the record is the first after
it. -/
theorem leavingAProhibitedRegionHidesTheCount : Obligations.LeavingAProhibitedRegionHidesTheCount := by
  intro r s t quiescent inside source h changed
  obtain rfl := eq_returnFromException h
  obtain unchanged | ⟨c, u, capture, -, -, unknown, records⟩ := returnFromException_records r s
  · exact absurd unchanged changed
  · rw [sourceProhibited_of_eq source (by rw [← show s.synced = s.written from quiescent]; exact source)] at capture
    obtain ⟨target, rfl⟩ := captureOf_source_prohibited capture
    have first : firstAfterCause s s.written (loadedCtx r) = true := by simp [firstAfterCause, inside, target]
    obtain ⟨ccu, cc⟩ := newRecord_of_ccUnknown (unknown first) (.halfTarget r.tgt (loadedCtx r).el) r.type
      (branchMPred s.params u.synced r.mispredicted)
    exact ⟨_, records, rfl, ccu, cc⟩

end Sys2Proof.Machine

/-! Debug state entry and exit, and the obligations on them (spec/44_exception_records.md section 2,
spec/45_exception_return_records.md section 2). -/

namespace Sys2Proof.Machine

open Sys2Proof

/-! ### Both are a move and the record step of a transition, with no enable (decision D23) -/

/-- Two reasons to withhold, asked one after the other or as one. -/
theorem withheld_eq (inside filtered : Bool) (withheld recorded : State) :
    (if inside then withheld else if filtered then withheld else recorded) =
      if !inside && !filtered then recorded else withheld := by
  cases inside <;> cases filtered <;> rfl

theorem debugEntry_eq (c : Context) (src : Addr) (type : BranchType) (s : State) :
    debugEntry c src type s =
      recordTransition (.debugEntry c src type) (some (.halfSource src)) (!prohibited s.params s.synced c) type
        (fun _ _ => debugMPred) (moveTo { s.ctx with debug := true } s) :=
  withheld_eq ..

theorem debugExit_eq (c : Context) (tgt : Addr) (type : BranchType) (s : State) :
    debugExit c tgt type s =
      recordTransition (.debugExit c tgt type) (some (.halfTarget tgt c.el)) (!prohibited s.params s.synced c) type
        (fun _ _ => debugMPred) (moveTo c s) :=
  withheld_eq ..

/-! ### The record step after a move -/

/-- The count is that of the state before, the first after a cause if the move is one. -/
theorem counted_moveTo (c : Context) (cap : Capture) (type : BranchType) (mpred : Bool) (s : State) :
    Counted s s.synced (firstAfterCause s s.synced c) (newRecord cap type mpred (moveTo c s)) := by
  obtain ⟨unknown, saturated, encoded⟩ := counted_newRecord cap type mpred (moveTo c s)
  exact ⟨unknown, saturated, encoded⟩

/-- A move is a cause of an unknown count only where it leaves a Prohibited region. -/
theorem firstAfterCause_synced (s : State) (c : Context) :
    firstAfterCause s s.synced c = (s.ccUnknown || (s.inProhibited && !prohibited s.params s.synced c)) := by
  simp [firstAfterCause]

section
variable {e : Event} {cap : Capture} {type : BranchType} {mpred : Params → Controls → Bool} {c : Context} {s : State}
  {enabled : Bool}

theorem record_after_move :
    NothingGenerated s (recordTransition e (some cap) enabled type mpred (moveTo c s)) ∨
      ∃ x, x = newRecord cap type (mpred s.params s.synced) (moveTo c s) ∧
        Generated s (recordTransition e (some cap) enabled type mpred (moveTo c s)) x ∧
        Counted s s.synced (firstAfterCause s s.synced c) x := by
  obtain withheld | ⟨_, ⟨⟩, -, -, generated⟩ :=
    recordTransition_cases e (some cap) enabled type mpred (moveTo c s)
  · rw [withheld]; exact .inl (nothingGenerated_moveTo ..)
  · rw [generated]; exact .inr ⟨_, rfl, ⟨rfl, rfl, rfl, rfl, rfl⟩, counted_moveTo ..⟩

theorem nothing_after_move (h : enabled = false ∨ s.synced.paused = true) :
    NothingGenerated s (recordTransition e (some cap) enabled type mpred (moveTo c s)) := by
  rw [recordTransition_withheld (s := moveTo c s) (h.imp_right fun paused => isFiltered_of_paused paused e)]
  exact nothingGenerated_moveTo ..

theorem generated_after_move (filter : s.params.filter = .recalled) (unpaused : s.synced.paused = false) :
    ∃ x, Generated s (recordTransition e (some cap) true type mpred (moveTo c s)) x := by
  have passes : isFiltered e (moveTo c s) = false := (isFiltered_recalled (s := moveTo c s) filter e).trans unpaused
  have recorded : recordTransition e (some cap) true type mpred (moveTo c s) =
      generateRecord cap type (mpred s.params s.synced) (moveTo c s) := by
    simp [recordTransition, passes]
  rw [recorded]
  exact ⟨_, rfl, rfl, rfl, rfl, rfl⟩

end

/-! ### The obligations -/

/-- Settles O39: the PE enters a Prohibited region, so that the entry is itself no cause of an unknown count. -/
theorem debugEntryIsHalfSourceOrNothing : Obligations.DebugEntryIsHalfSourceOrNothing := by
  intro c src n s
  have entered : prohibited s.params s.synced { s.ctx with debug := true } = true := prohibited_of_debug rfl
  have moved : Moved s (debugEntry c src n s) s.synced { s.ctx with debug := true } :=
    debugEntry_eq .. ▸ (moved_moveTo ..).recordTransition ..
  refine ⟨debugEntry c src n s, rfl, moved, moved.region.trans entered, ?_⟩
  rw [debugEntry_eq]
  refine ⟨fun inside => nothing_after_move (.inl (by simp [inside])), fun _ => ?_,
    fun paused => nothing_after_move (.inr paused), fun outside filter unpaused => ?_⟩
  · refine record_after_move.imp_right ?_
    rintro ⟨_, rfl, generated, counted⟩
    rw [firstAfterCause_synced, entered, Bool.not_true, Bool.and_false, Bool.or_false] at counted
    exact ⟨_, generated, rfl, rfl, rfl, rfl, counted⟩
  · rw [outside]
    exact generated_after_move filter unpaused

/-- Settles O40: the exit to a region that is not Prohibited is a cause of an unknown count where the PE was in one. -/
theorem debugExitIsHalfTargetOrNothing : Obligations.DebugExitIsHalfTargetOrNothing := by
  intro c tgt n s
  have moved : Moved s (debugExit c tgt n s) s.synced c := debugExit_eq .. ▸ (moved_moveTo ..).recordTransition ..
  refine ⟨debugExit c tgt n s, rfl, moved, ?_⟩
  rw [debugExit_eq]
  refine ⟨fun inside => nothing_after_move (.inl (by simp [inside])), fun outside => ?_,
    fun paused => nothing_after_move (.inr paused), fun outside filter unpaused => ?_⟩
  · refine record_after_move.imp_right ?_
    rintro ⟨_, rfl, generated, counted⟩
    rw [firstAfterCause_synced, outside, Bool.not_false, Bool.and_true] at counted
    exact ⟨_, generated, rfl, rfl, rfl, rfl, rfl, counted, fun left => counted.unknown (.inr (.inr (by simp [left])))⟩
  · rw [outside]
    exact generated_after_move filter unpaused

end Sys2Proof.Machine

/-! What holds of every event that generates a record, and what a transition reveals of a Prohibited region: the
obligations on `LASTFAILED`, on a paused unit and on hidden addresses (spec/43_prohibited_regions.md section 3,
spec/46_tme_and_speculation.md rule R148). -/

namespace Sys2Proof.Machine

open Sys2Proof

/-! ### The generating events with the freeze event of rule R160 -/

/-- An event that generates a record leaves the buffer, or leaves what `GenerateRecord` says. -/
theorem records_or_generated {e : Event} {s t : State} (recalled : s.params.freeze = .recalled)
    (h : handle e s = .next t) (generating : generates e = true) : t.records = s.records ∨ ∃ r, Generated s t r := by
  cases e with
  | takenBranch b =>
    cases h
    obtain recorded | suppressed := takenBranch_eq_or b s
    · rw [recorded]; exact .inr ⟨_, generateRecord_spec ..⟩
    · rw [suppressed]; exact .inl rfl
  | exception e => cases h; exact (transition_nothing_or_generated recalled).imp_left NothingGenerated.records
  | exceptionReturn r => cases h; exact (transition_nothing_or_generated recalled).imp_left NothingGenerated.records
  | debugEntry c src type =>
    cases h
    rw [debugEntry_eq]
    exact record_after_move.imp NothingGenerated.records fun ⟨x, _, generated, _⟩ => ⟨x, generated⟩
  | debugExit c tgt type =>
    cases h
    rw [debugExit_eq]
    exact record_after_move.imp NothingGenerated.records fun ⟨x, _, generated, _⟩ => ⟨x, generated⟩
  | _ => cases generating

/-- The generating events that move the PE, recorded or not. -/
def movesPE : Event → Bool
  | .exception _ | .exceptionReturn _ | .debugEntry _ _ _ | .debugExit _ _ _ => true
  | _ => false

/-- While the unit is paused nothing changes on account of a record (rule R75, decisions D8 and D22). -/
theorem nothingGenerated_of_paused {e : Event} {s t : State} (recalled : s.params.freeze = .recalled)
    (synced : s.synced.paused = true) (written : s.written.paused = true) (h : handle e s = .next t)
    (moves : movesPE e = true) : NothingGenerated s t := by
  cases e with
  | exception e =>
    cases h
    rw [takeException, transition_of_withheld recalled (.inr written)]
    exact nothingGenerated_enterContext ..
  | exceptionReturn r =>
    cases h
    rw [returnFromException, transition_of_withheld recalled (.inr written)]
    exact nothingGenerated_enterContext ..
  | debugEntry c src type => cases h; rw [debugEntry_eq]; exact nothing_after_move (.inr synced)
  | debugExit c tgt type => cases h; rw [debugExit_eq]; exact nothing_after_move (.inr synced)
  | _ => cases moves

/-- Settles O44. -/
theorem everyGeneratedRecordTakesLastFailed : Obligations.EveryGeneratedRecordTakesLastFailed := by
  intro e s t recalled notBrb h changed
  obtain handled | executed := h
  · obtain generating | ⟨c, isIall⟩ | ⟨c, isInj⟩ := (handles_of_handle handled).of_records_ne changed
    · exact (records_or_generated recalled handled generating).resolve_left changed
    · exact absurd isIall (notBrb c).1
    · exact absurd isInj (notBrb c).2
  · obtain rfl := eq_returnFromException_of_exec_eret executed
    exact (records_or_generated (e := .exceptionReturn (portReturn s)) recalled rfl rfl).resolve_left changed

/-- Settles O45. -/
theorem pausedUnitGeneratesNoRecord : Obligations.PausedUnitGeneratesNoRecord := by
  intro s t recalled synced written
  have branch (b : BranchEvent) : takenBranch b s = s :=
    takenBranch_of_suppressed (.inr (isFiltered_of_paused synced _))
  have nothing (e : Event) (h : handle e s = .next t) := nothingGenerated_of_paused (e := e) recalled synced written h
  refine ⟨fun e notBrb h => ?_, fun h => ?_, fun b h => ?_, ?_⟩
  · by_contra changed
    obtain generating | ⟨c, isIall⟩ | ⟨c, isInj⟩ := (handles_of_handle h).of_records_ne changed
    · cases e with
      | takenBranch b => cases h; exact changed (congrArg State.records (branch b))
      | exception | exceptionReturn | debugEntry | debugExit => exact changed (nothing _ h rfl).records
      | _ => cases generating
    · exact (notBrb c).1 isIall
    · exact (notBrb c).2 isInj
  · have unrecorded := nothing (.exceptionReturn (portReturn s)) (handle_instrEvent h) rfl
    exact ⟨unrecorded.records, unrecorded⟩
  · cases h; exact branch b
  · rintro e (⟨x, rfl⟩ | ⟨r, rfl⟩ | ⟨c, a, n, rfl⟩ | ⟨c, a, n, rfl⟩) h <;> exact nothing _ h rfl

/-! ### What a transition reveals -/

/-- The capture has no source of a Prohibited region in it. -/
theorem captureOf_hides_source {sp : Bool} (h : sp = true) (tp : Bool) (src a tgt : Addr) (el : EL) :
    captureOf sp tp a tgt el = captureOf sp tp src tgt el := by
  subst h
  cases tp <;> rfl

/-- The capture has no target in a Prohibited region in it. -/
theorem captureOf_hides_target {tp : Bool} (h : tp = true) (sp : Bool) (src tgt a : Addr) (el : EL) :
    captureOf sp tp src a el = captureOf sp tp src tgt el := by
  subst h
  cases sp <;> rfl

section
variable {s : State} (filter : s.params.filter = .recalled) (e e' : Event) (cap : Option Capture) (enabled : Bool)
  (type : BranchType) (mpred : Params → Controls → Bool)
include filter

/-- With no filter but `PAUSED` the record step does not read the event. -/
theorem recordTransition_event :
    recordTransition e' cap enabled type mpred s = recordTransition e cap enabled type mpred s := by
  simp only [recordTransition, isFiltered_recalled filter]

/-- Nor does it read the port. -/
theorem recordTransition_port (port : PePort) :
    recordTransition e' cap enabled type mpred { s with port := port } =
      { recordTransition e cap enabled type mpred s with port := port } := by
  have filtered : isFiltered e' { s with port := port } = isFiltered e s := by
    rw [isFiltered_recalled (s := { s with port := port }) filter, isFiltered_recalled filter]
  unfold recordTransition
  split
  · rfl
  · rw [filtered]
    split <;> rfl

end

section
variable {fromCtx toCtx : Context} {src tgt src' tgt' : Addr} {s : State} (filter : s.params.filter = .recalled)
  (capture : captureOf (sourceProhibited fromCtx s) (prohibited s.params s.written toCtx) src' tgt' toCtx.el =
    captureOf (sourceProhibited fromCtx s) (prohibited s.params s.written toCtx) src tgt toCtx.el)
  {e e' : Event} {type : BranchType} {enabled mpred : Params → Controls → Bool}
include filter capture

/-- A transition reveals of its addresses what its capture holds, a racing freeze event or not. -/
theorem transition_hides :
    transition e' fromCtx toCtx src' tgt' type enabled mpred s =
      transition e fromCtx toCtx src tgt type enabled mpred s := by
  have params : (racingFreeze (s.free.choice + 1) (freezeRaces s (enterContext toCtx s)) true
      (enterContext toCtx s)).params = s.params := by
    obtain h | ⟨-, h⟩ := racingFreeze_cases (s.free.choice + 1) (freezeRaces s (enterContext toCtx s)) true
      (enterContext toCtx s) <;> rw [h] <;> rfl
  refine congrArg (racingFreeze _ _ false) ?_
  refine (congrArg (fun cap => recordTransition e' cap _ _ _ _) capture).trans ?_
  exact recordTransition_event (by rw [params]; exact filter) ..

/-- And where no freeze event races, what it leaves does not depend on the port. -/
theorem transition_hides_port (recalled : s.params.freeze = .recalled) (port : PePort) :
    transition e' fromCtx toCtx src' tgt' type enabled mpred { s with port := port } =
      { transition e fromCtx toCtx src tgt type enabled mpred s with port := port } := by
  rw [transition_recalled (s := { s with port := port }) recalled, transition_recalled recalled]
  refine (congrArg (fun cap => recordTransition e' cap _ _ _ _) capture).trans ?_
  exact recordTransition_port (s := enterContext toCtx s) filter ..

end

/-- Settles O50: a Prohibited side is in no capture, and the record step reads an address there alone. -/
theorem exceptionHidesTheProhibitedSide : Obligations.ExceptionHidesTheProhibitedSide := by
  intro e r a s filter
  refine ⟨fun synced written => ?_, fun target => ?_, fun synced written => ?_, fun target => ?_,
    fun recalled hel => ?_⟩
  · exact congrArg Host.Outcome.next
      (transition_hides filter (captureOf_hides_source (sourceProhibited_of_eq synced written) ..))
  · exact congrArg Host.Outcome.next (transition_hides filter (captureOf_hides_target target ..))
  · exact congrArg Host.Outcome.next
      (transition_hides filter (captureOf_hides_source (sourceProhibited_of_eq synced written) ..))
  · exact congrArg Host.Outcome.next (transition_hides filter (captureOf_hides_target target ..))
  · obtain ⟨-, -, port, -⟩ := returnFromException_frame (portReturn s) s
    refine ⟨returnFromException (portReturn s) s, execEret_eq hel, fun synced written => ?_, fun target => ?_⟩
    · rw [port]
      refine (execEret_eq (s := { s with port.src := a }) hel).trans (congrArg Host.Outcome.next ?_)
      exact transition_hides_port filter (captureOf_hides_source (sourceProhibited_of_eq synced written) ..) recalled _
    · rw [port]
      refine (execEret_eq (s := { s with port.tgt := a }) hel).trans (congrArg Host.Outcome.next ?_)
      exact transition_hides_port filter (captureOf_hides_target target ..) recalled _

end Sys2Proof.Machine

/-! Software's accesses to the System registers, and the obligations on them (spec/47_brb_instructions.md rules R157,
R158, R161). -/

namespace Sys2Proof.Machine

open Sys2Proof

/-! ### Accesses that the access check allows -/

theorem brbAccessCheck_el0 {p : Params} {c : Context} (recalled : p.access = .recalled) (h : c.el = .el0) (op : BrbOp) :
    brbAccessCheck p c op = .undefined := by
  simp [brbAccessCheck, recalled, h]

theorem brbAccessCheck_above_el0 {p : Params} {c : Context} (recalled : p.access = .recalled) (h : c.el ≠ .el0)
    (op : BrbOp) : brbAccessCheck p c op = .allowed := by
  simp [brbAccessCheck, recalled, h]

section
variable {s : State} {w : RegWrite} {r : Reg}

theorem handle_write_of_undefined (h : brbAccessCheck s.params s.ctx (.write (writeReg w)) = .undefined) :
    handle (.sysRegWrite w) s = .next (report .undefinedInstruction s) := by
  simp [handle, sysRegWrite, h]

theorem handle_read_of_undefined (h : brbAccessCheck s.params s.ctx (.read r) = .undefined) :
    handle (.sysRegRead r) s = .next (report .undefinedInstruction s) := by
  simp [handle, sysRegRead, h]

theorem handle_write_of_allowed (allowed : brbAccessCheck s.params s.ctx (.write (writeReg w)) = .allowed)
    (h : writeRefusal s.params w = none) : handle (.sysRegWrite w) s = .next (writeField w s) := by
  simp [handle, sysRegWrite, allowed, h]

theorem handle_write_of_refused (allowed : brbAccessCheck s.params s.ctx (.write (writeReg w)) = .allowed)
    {why : Refusal} (h : writeRefusal s.params w = some why) : handle (.sysRegWrite w) s = .refused why := by
  simp [handle, sysRegWrite, allowed, h]

section
variable (allowed : brbAccessCheck s.params s.ctx (.read r) = .allowed)
include allowed

theorem reads_of_allowed (present : regPresent s.params r = true) {v : RegValue} (h : readValue r s = some v) :
    Reads s r v :=
  ⟨spendRead s, by simp [handle, sysRegRead, allowed, present, h, report]⟩

theorem handle_read_of_no_value (present : regPresent s.params r = true) (h : readValue r s = none) :
    handle (.sysRegRead r) s = .refused (readRefusal r) := by
  simp [handle, sysRegRead, allowed, present, h]

theorem handle_read_of_absent (absent : regPresent s.params r = false) :
    handle (.sysRegRead r) s = .refused (.absentRegister r) := by
  simp [handle, sysRegRead, allowed, absent]

end

/-! ### What a field write changes -/

/-- A field of a register that software may write is refused only where the register is absent. -/
theorem writeRefusal_of_not_readOnly (h : ∀ x, w ≠ .readOnly x) (p : Params) :
    writeRefusal p w = if regPresent p (writeReg w) then none else some (.absentRegister (writeReg w)) := by
  cases w with
  | readOnly x => exact absurd rfl (h x)
  | _ => rfl

theorem writeField_injection (h : writeReg w = .injection) :
    writeField w s = { s with injection := (writeField w s).injection } := by
  cases w with
  | injValid | injType | injEl | injMpred | injCcu | injCc | injLastFailed | injSrc | injTgt | readOnly => rfl
  | _ => cases h

theorem writeField_control (notInjection : writeReg w ≠ .injection) (notLastFailed : ∀ v, w ≠ .lastFailed v)
    (notRest1 : ∀ v, w ≠ .rest1 v) (notRest2 : ∀ v, w ≠ .rest2 v) :
    writeField w s = { s with written := (writeField w s).written } := by
  cases w with
  | injValid | injType | injEl | injMpred | injCcu | injCc | injLastFailed | injSrc | injTgt =>
    exact absurd rfl notInjection
  | lastFailed v => exact absurd rfl (notLastFailed v)
  | rest1 v => exact absurd rfl (notRest1 v)
  | rest2 v => exact absurd rfl (notRest2 v)
  | _ => rfl

end

/-- Of a Half-source record all of `INF` but `EL` is meaningful (spec/10_state.md rule R20). -/
theorem readInf_of_halfSource {r : Record} (h : r.inf.valid = 0b10#2) (drawn : Record) :
    readInf r drawn = { r.inf with el := drawn.inf.el } := by
  simp [readInf, h]

theorem fitCC_of_lt {p : Params} {n : Nat} (h : n < 2 ^ p.ccw) : fitCC p n = n := Nat.mod_eq_of_lt h

/-- A count that fits its field is stored as it is. -/
theorem writeField_injCc_of_lt {s : State} {n : Nat} (h : n < 2 ^ s.params.ccw) :
    writeField (.injCc n) s = { s with injection.inf.cc := n } := by
  simp [writeField, fitCC_of_lt h]

/-! ### The obligations -/

/-- Settles O53, kind of write by kind of write. -/
theorem registerWriteWaitsForSynchronization : Obligations.RegisterWriteWaitsForSynchronization := by
  intro w s allowed accepted
  refine ⟨writeField w s, handle_write_of_allowed allowed accepted, by rw [writeField_frame], ?_, ?_, ?_,
    writeField_injection, writeField_control⟩ <;> rintro v rfl <;> rfl

/-- Settles O54: above EL0 the recommended check allows every access, and each write stores its field. -/
theorem softwareReadsBackItsWrites : Obligations.SoftwareReadsBackItsWrites := by
  intro s access above stores
  have store (w : RegWrite) (accepted : writeRefusal s.params w = none) : stores w (writeField w s) :=
    handle_write_of_allowed (brbAccessCheck_above_el0 access above _) accepted
  have read {r : Reg} {v : RegValue} (present : regPresent s.params r = true) (h : readValue r s = some v) :
      Reads s r v :=
    reads_of_allowed (brbAccessCheck_above_el0 access above _) present h
  refine ⟨fun v => ⟨store _ rfl, store _ rfl, store _ rfl, store _ rfl, store _ rfl, store _ rfl, store _ rfl,
      store _ rfl⟩,
    fun el2 v => ?el2, fun el3 => ?el3,
    fun v => ⟨store _ rfl, fun el2 => store _ (if_pos el2)⟩, fun v => ⟨store _ rfl, store _ rfl⟩,
    fun n => ⟨store _ rfl, fun fits => ?count⟩, fun v => ⟨store _ rfl, store _ rfl, store _ rfl⟩,
    fun a => ⟨store _ rfl, store _ rfl⟩, read rfl rfl, read rfl rfl, read rfl rfl,
    fun el2 => ⟨read el2 rfl, read el2 rfl⟩, fun el3 => read el3 rfl⟩
  case el2 =>
    exact ⟨store _ (if_pos el2), store _ (if_pos el2), store _ (if_pos el2), store _ (if_pos el2),
      store _ (if_pos el2), store _ (if_pos el2), store _ (if_pos el2)⟩
  case el3 => exact ⟨fun v => store _ (if_pos el3), fun v => ⟨store _ (if_pos el3), store _ (if_pos el3)⟩⟩
  case count =>
    rw [← writeField_injCc_of_lt fits]
    exact store _ rfl

/-- Settles O55: what each `VALID` makes meaningful is read as it is held. -/
theorem readingAFullRecordReturnsIt : Obligations.ReadingAFullRecordReturnsIt := by
  intro n r s allowed held
  have inf : Reads s (.brbinf n) (.inf (readInf r (readDraw s))) :=
    reads_of_allowed (allowed _ (by simp)) rfl (by simp [readValue, held])
  have src : Reads s (.brbsrc n) (.address (readSrc r (readDraw s))) :=
    reads_of_allowed (allowed _ (by simp)) rfl (by simp [readValue, held])
  have tgt : Reads s (.brbtgt n) (.address (readTgt r (readDraw s))) :=
    reads_of_allowed (allowed _ (by simp)) rfl (by simp [readValue, held])
  refine ⟨fun full => ?full, fun halfSource => ?halfSource, fun halfTarget => ?halfTarget, fun invalid => ?invalid⟩
  case full =>
    simp only [readInf, readSrc, readTgt, full] at inf src tgt
    exact ⟨inf, src, tgt⟩
  case halfSource =>
    rw [readInf_of_halfSource halfSource] at inf
    simp only [readSrc, halfSource] at src
    exact ⟨⟨_, inf⟩, src, _, tgt⟩
  case halfTarget =>
    simp only [readInf, readTgt, halfTarget] at inf tgt
    exact ⟨inf, ⟨_, src⟩, tgt⟩
  case invalid =>
    simp only [readInf, invalid] at inf
    exact ⟨⟨_, rfl, inf⟩, ⟨_, src⟩, _, tgt⟩

/-- Settles O56. -/
theorem readsHaveNoSideEffect : Obligations.ReadsHaveNoSideEffect :=
  fun _ _ _ => sysRegRead_next

/-- Settles O57: each access ends in the one check that it fails. -/
theorem readOnlyAndAbsentRecordsAreRefused : Obligations.ReadOnlyAndAbsentRecordsAreRefused := by
  intro n r w s reads writes
  refine ⟨fun beyond => ?beyond, fun allowed => handle_write_of_refused allowed rfl, fun absent => ?absent,
    fun allowed => handle_read_of_no_value allowed rfl rfl⟩
  case beyond =>
    have none : s.records[n]? = none := List.getElem?_eq_none beyond
    refine ⟨fun allowed => ?_, fun allowed => ?_, fun allowed => ?_⟩ <;>
      exact handle_read_of_no_value allowed rfl (by simp [readValue, none])
  case absent =>
    have notPresent : regPresent s.params r = false := by
      obtain ⟨rfl | rfl, absent⟩ | ⟨rfl, absent⟩ := absent <;> exact absent
    refine ⟨fun allowed => handle_read_of_absent allowed notPresent, ?_⟩
    rintro rfl notReadOnly allowed
    exact handle_write_of_refused allowed (by simp [writeRefusal_of_not_readOnly notReadOnly, notPresent])

/-- Settles O58: the recommended check answers undefined at EL0 and allowed above it. -/
theorem el0ReachesNothing : Obligations.EL0ReachesNothing := by
  intro w r c s access undefined
  refine ⟨fun el0 => ?registers, fun el0 outside => ?brb, fun above => ⟨brbAccessCheck_above_el0 access above,
    fun outside => ?effect⟩⟩
  case registers =>
    exact ⟨handle_write_of_undefined (brbAccessCheck_el0 access el0 _),
      handle_read_of_undefined (brbAccessCheck_el0 access el0 _)⟩
  case brb =>
    have iall : handle (.brbIall c) s = undefined := congrArg Host.Outcome.next
      (guardedBrb_of_undefined outside (brbAccessCheck_el0 access el0 _) invalidateAll)
    have inj : handle (.brbInj c) s = undefined := congrArg Host.Outcome.next
      (guardedBrb_of_undefined outside (brbAccessCheck_el0 access el0 _) injectRecord)
    exact ⟨iall, inj, fun h => ⟨(exec_brbIall h).trans iall, (exec_brbInj h).trans inj⟩⟩
  case effect =>
    have iall := handle_brbIall_of_allowed outside (brbAccessCheck_above_el0 access above _)
    have inj := handle_brbInj_of_allowed outside (brbAccessCheck_above_el0 access above _)
    exact ⟨invalidated s.params s.free.record 0 s.records, invalidated_length .., invalidated_valid _ _ _ _, iall, inj,
      fun h => ⟨(exec_brbIall h).trans iall, (exec_brbInj h).trans inj⟩⟩

end Sys2Proof.Machine

/-! A register of an Exception level that the PE does not have plays no part (decision D7): the exact enables and
regions, and the obligation on them (spec/43_prohibited_regions.md sections 1 and 2). -/

namespace Sys2Proof.Machine

open Sys2Proof

section
variable {p : Params} {c : Context}

/-! ### The enable of EL3 -/

/-- Exceptions to EL3 are enabled by self-hosted EL3 branch recording alone (rule R121). -/
theorem exceptionEnabled_el3 (p : Params) (v : Controls) :
    exceptionEnabled p v .el3 = (p.haveBRBEv1p1 && p.haveEL3 && (v.mdcrEl3.e3brec != v.mdcrEl3.e3brew)) := by
  rw [Bool.eq_iff_iff, exceptionEnabled_el3_iff]
  simp [and_assoc]

/-! ### Without EL3 -/

theorem exceptionEnabled_el3_of_no_el3 (h : p.haveEL3 = false) (v : Controls) :
    exceptionEnabled p v .el3 = false := by
  simp [exceptionEnabled_el3, h]

theorem secProhibit_of_no_el3 (h : p.haveEL3 = false) (v : Controls) (c : Context) : secProhibit p v c = false := by
  simp [secProhibit, h]

/-- The regions without EL3: nothing is prohibited by `MDCR_EL3`, and EL3 records nothing. -/
theorem prohibited_of_no_el3 (h : p.haveEL3 = false) (h32 : c.aarch32 = false) (hd : c.debug = false) (v : Controls) :
    prohibited p v c = match c.el with
      | .el3 => true
      | .el2 => !v.brbcrEl2.e2bre
      | .el1 => !v.brbcrEl1.e1bre
      | .el0 => if c.el2Enabled && v.tge then !v.brbcrEl2.e0hbre else !v.brbcrEl1.e0bre := by
  cases hel : c.el <;> simp only [prohibited, h32, hd, hel, secProhibit_of_no_el3 h, Bool.or_false]
  · cases hu : c.el2Enabled && v.tge <;> simp [el0UnderEl2, hu]
  · simp
  · simp
  · simp [el3RecEnabled, h]

/-! ### Without EL2, and with it -/

theorem ccEnabled_of_no_el2 (h : p.haveEL2 = false) (v : Controls) : ccEnabled p v = v.brbcrEl1.cc := by
  simp [ccEnabled, h]

theorem ccEnabled_of_el2 (h : p.haveEL2 = true) (v : Controls) :
    ccEnabled p v = (v.brbcrEl1.cc && v.brbcrEl2.cc) := by
  simp [ccEnabled, h]

/-- A legal context of a PE without EL2 is not at EL2 and has EL2 not enabled. -/
theorem no_el2_of_legal (h : p.haveEL2 = false) (legal : c.illegal p = none) :
    c.el ≠ .el2 ∧ c.el2Enabled = false := by
  have present := Context.illegal_eq_none_iff.mp legal
  unfold AbsentContext at present
  grind

/-- Without EL2 no control of EL2 bears on a region. -/
theorem prohibited_of_no_el2 (h : p.haveEL2 = false) (legal : c.illegal p = none) (v w : Controls) :
    prohibited p { v with brbcrEl2 := w.brbcrEl2, tge := w.tge } c = prohibited p v c := by
  obtain ⟨notEl2, disabled⟩ := no_el2_of_legal h legal
  cases hel : c.el with
  | el2 => contradiction
  | el0 => simp [prohibited, hel, el0UnderEl2, disabled, secProhibit]
  | el1 => simp [prohibited, hel, secProhibit]
  | el3 => simp [prohibited, hel, el3RecEnabled]

end

/-- Settles O48. -/
theorem absentLevelsPlayNoPart : Obligations.AbsentLevelsPlayNoPart := by
  intro p v w c m
  refine ⟨⟨rfl, rfl, exceptionEnabled_el3 p v⟩, ⟨rfl, rfl, returnEnabled_el3 p v ▸ exceptionEnabled_el3 p v⟩,
    fun noEl3 => ?withoutEl3, fun noEl2 => ?withoutEl2, fun el2 => ?withEl2⟩
  case withoutEl3 =>
    exact ⟨exceptionEnabled_el3_of_no_el3 noEl3 v, returnEnabled_el3 p v ▸ exceptionEnabled_el3_of_no_el3 noEl3 v,
      fun h => h.elim prohibited_of_aarch32 prohibited_of_debug, fun h32 hd => prohibited_of_no_el3 noEl3 h32 hd v⟩
  case withoutEl2 =>
    refine ⟨ccEnabled_of_no_el2 noEl2 v, by simp [branchMPred_eq, noEl2], fun legal =>
      ⟨prohibited_of_no_el2 noEl2 legal v w, fun hel h32 hd noEl3 => ?_⟩⟩
    obtain ⟨-, disabled⟩ := no_el2_of_legal noEl2 legal
    rw [prohibited_of_no_el3 noEl3 h32 hd]
    simp [hel, disabled]
  case withEl2 => exact ⟨ccEnabled_of_el2 el2 v, by simp [branchMPred_eq, el2]⟩

end Sys2Proof.Machine
